-- ==== Sys2Proof/Word.lean ====
section
/-!
DEFINITION. The word types of the SSCE (spec/00_scope.md section 6, spec/10_state.md rule R20).
Every quantity of the spec is an unsigned bit vector of a stated width; sizes and counts are
natural numbers.
-/

namespace Sys2Proof

/-- A byte: 8 bits, a value 0 to 255 (spec/00_scope.md section 6). It is also a field element (R140). -/
abbrev Byte := BitVec 8

/-- A word index: 11 bits, the number of a dictionary entry (spec/00_scope.md section 6). -/
abbrev WordIdx := BitVec 11

/-- The value of one host-port register, and a command word (R60, R90). -/
abbrev Reg32 := BitVec 32

/-- A register number of the host port: 12 bits, 0x000 to 0xFFF (R60). -/
abbrev RegNum := BitVec 12

/-- The characters of one dictionary word: character c in bits [8c+7 : 8c], 0x00 after the last one (R28, R40). -/
abbrev Chars := BitVec 64

/-- One 16-byte chunk: SEC, CB, or the payload of a share (R20, `CHUNK` of R5). -/
abbrev Chunk := Vector Byte 16

/-- The word buffer's twelve entries (R20, `WORDS` of R5). -/
abbrev WordBuf := Vector WordIdx 12

/-- The dictionary ROM: 2048 entries of 64 bits (R40, `DSIZE` of R5). -/
abbrev Rom := Vector Chars 2048

end Sys2Proof
end

