-- ==== Sys2Proof/Config.lean ====
section
/-!
DEFINITION. What an implementation of the SSCE fixes (spec/00_scope.md rule R5, spec/10_state.md rules
R22 and R40) and the free values of the model.

The three parameters POLY, NSLOT and DICT are arguments of the spec's step relation. The model carries them
as constant parts of `State` (DESIGN CHOICE, log entry 1), so that a statement about every state is a statement about every
configuration. This file holds the defaults the spec names, the ranges it calls legal, and the two values it leaves
free.
-/

namespace Sys2Proof.Config

/-- The default of the parameter NSLOT, the number of share slots (R5). -/
def nslotDefault : Nat := 15

/-- The default of the parameter POLY, the 9-bit field polynomial (R5, R141). -/
def polyDefault : BitVec 9 := 0x11B#9

/-- The 30 legal values of POLY, in the order in which rule R141 lists them. -/
def legalPolys : List (BitVec 9) :=
  [0x11B#9, 0x11D#9, 0x12B#9, 0x12D#9, 0x139#9, 0x13F#9, 0x14D#9, 0x15F#9, 0x163#9, 0x165#9] ++
  [0x169#9, 0x171#9, 0x177#9, 0x17B#9, 0x187#9, 0x18B#9, 0x18D#9, 0x19F#9, 0x1A3#9, 0x1A9#9] ++
  [0x1B1#9, 0x1BD#9, 0x1C3#9, 0x1CF#9, 0x1D7#9, 0x1DD#9, 0x1E7#9, 0x1F3#9, 0x1F5#9, 0x1F9#9]

/-- FREE VALUE, DESIGN CHOICE (log entry 2). The ROM image of the machine `State.reset` describes: the spec fixes no word of the
dictionary (R40, decision D23), so nothing constrains it, not even legality, which claims take as a premise. -/
opaque rom : Rom

/-- FREE VALUE, DESIGN CHOICE (log entry 3). The byte the random source answers to the n-th draw, when no byte was laid out for it
beforehand in `State.rngQueue` (R70: a draw under no law). -/
opaque rngByte : Nat → Byte

end Sys2Proof.Config
end

