-- ==== Sys2Proof/Syntax.lean ====
section
/-!
DEFINITION. The syntax of the SSCE: the 19 commands (spec/30_encoding.md rule R92), the registers of the host
port (spec/20_memory.md rule R61), the events of the host port (spec/00_scope.md rules R6 and R7), and the lines of a
host program (spec/30_encoding.md rule R97).
-/

namespace Sys2Proof

/-- The 19 commands of rule R92, in the table's order, one constructor per row of the opcode table. An operand is the
8-bit field A or B of the command word as it stands, unsigned (R91): no range is imposed here, since an operand value that
a command refuses is refused by the command's own rule, not by the decoder (R93). -/
inductive Instr where
  | nop
  | errclr
  | zeroize
  | wclr
  | lookup
  | fetch (j : Byte)
  | pack
  | unpack
  | embed (i : Byte)
  | extract
  | fadd
  | fmul
  | finv
  | split (t n : Byte)
  | combine (t : Byte)
  | ldsec
  | stsec
  | ldsh (k i : Byte)
  | stsh (k : Byte)
deriving DecidableEq, Repr

/-- The registers of the host port, by the names of rule R61. The slot number k of SHIDXk and SHPAYk_q is a
natural number here: which k exist depends on NSLOT. -/
inductive Reg where
  | cmd
  | errcode
  | errinfo
  | cfg
  | idxr
  | wcnt
  | blen
  | wordinLo
  | wordinHi
  | wordoutLo
  | wordoutHi
  | gfa
  | gfb
  | gfr
  | sec (q : Fin 4)
  | cb (q : Fin 4)
  | w (j : Fin 12)
  | shidx (k : Nat)
  | shpay (k : Nat) (q : Fin 4)
deriving DecidableEq, Repr

/-- What the outside world can do to the SSCE: a host port read or write of one register (R60), or a reset applied by
the platform (R250). A write to CMD is what starts a command (R64). -/
inductive Event where
  | read (r : RegNum)
  | write (r : RegNum) (v : Reg32)
  | reset
deriving DecidableEq, Repr

/-- The names of the commands, as a host program writes them (R97). -/
inductive Op where
  | nop | errclr | zeroize | wclr | lookup | fetch | pack | unpack | embed | extract
  | fadd | fmul | finv | split | combine | ldsec | stsec | ldsh | stsh
deriving DecidableEq, Repr

/-- One line of a host program (R97): `WR name, value`, `RD name`, or a mnemonic with its operands. Values and operands
are the numbers as written, not yet checked; `Line.wellFormed` checks them. A line is given after its text has been read: how a
number is spelled and what a comment says is not kept (DESIGN CHOICE, log entry 18). -/
inductive Line where
  | wr (name : Reg) (value : Nat)
  | rd (name : Reg)
  | cmd (op : Op) (operands : List Nat)
deriving DecidableEq, Repr

end Sys2Proof
end

