-- ==== Sys2Proof/Machine/State.lean ====
section
/-!
DEFINITION. The state of the SSCE as plain data (spec/10_state.md rule R20), the constant parameters of its step
relation (R22), its random source (spec/20_memory.md rule R70), the host's pending transactions and the answers they
got (spec/00_scope.md rules R6 and R7), the reasons a step can stop, and the state after reset (R44).
-/

namespace Sys2Proof.Machine

/-- One share slot SH[k]: a valid bit, an 8-bit index and 16 payload bytes (R24). -/
@[ext]
structure Slot where
  valid : Bool
  idx : Byte
  pay : Chunk
deriving DecidableEq, Repr

/-- A slot at its reset value: not valid, index and payload zero (R44). -/
def Slot.empty : Slot := ⟨false, 0, Vector.replicate 16 0⟩

/-- The state of the machine. The first sixteen fields are the architectural state of rule R20, under its names. The next
two are the parameters POLY and DICT (R5, R22), which no step writes; the parameter NSLOT is the length of `sh`, which no step
changes (DESIGN CHOICE, log entry 1). The next three are the random source (R70; DESIGN CHOICE, log entry 3), and the last two are
the host's side of the port (R6, R7; DESIGN CHOICE, log entry 4). -/
@[ext]
structure State where
  /-- SEC[0..15], the secret chunk (R23). -/
  sec : Chunk
  /-- SH[0..NSLOT-1], the share slots (R24). -/
  sh : List Slot
  /-- CB[0..15], the codec byte buffer (R25). -/
  cb : Chunk
  /-- BLEN, how many bytes of CB are meaningful (R25). -/
  blen : BitVec 5
  /-- W[0..11], the word buffer (R26). -/
  w : WordBuf
  /-- WCNT, how many entries of W are meaningful (R26). -/
  wcnt : BitVec 4
  /-- IDXR, the share index last extracted (R27). -/
  idxr : BitVec 4
  /-- WORDIN, the characters of the word to look up (R28). -/
  wordin : Chars
  /-- WORDOUT, the characters of the word last fetched (R28). -/
  wordout : Chars
  /-- GFA, an operand of the field commands (R29). -/
  gfa : Byte
  /-- GFB, an operand of the field commands (R29). -/
  gfb : Byte
  /-- GFR, the result of the last field command (R29). -/
  gfr : Byte
  /-- ERRCODE, 0 or the code of the latched error (R30, R31). -/
  errcode : Byte
  /-- ERRINFO, the command word that raised the latched error (R31). -/
  errinfo : Reg32
  /-- POLY, a parameter: never written (R5, R141). -/
  poly : BitVec 9
  /-- DICT, a parameter: the ROM image, never written (R40). -/
  rom : Rom
  /-- The bytes the random source will answer next, oldest first, where a test lays them out beforehand (R70: "A test may fix the sequence"). -/
  rngQueue : List Byte
  /-- The model's own counter: how many bytes have been drawn. It selects the free value of a draw for which no byte is laid out. -/
  rngDrawn : Nat
  /-- Whether the random source answers a draw for which no byte is laid out; false models a source that never answers (R70, 93 U4). -/
  rngAnswers : Bool
  /-- The host's and the platform's pending events, next one first (R7). -/
  port : List Event
  /-- The values the port reads performed so far returned, oldest first (R62). -/
  answers : List Reg32
deriving DecidableEq, Repr

/-- Why the machine can be stuck. -/
inductive Fault where
  /-- A SPLIT asked the random source for a byte and the source never answers: the command has no completing step and the
  host's CMD write never completes (R70, 93 U4). Raised by SPLIT only. Safe: the spec says that nothing happens. -/
  | rngSilent
deriving DecidableEq, Repr

/-- Why the model gives an instruction no meaning. -/
inductive Refusal where
  /-- The instruction has no meaning in this model yet. Raised by no arm: every command has its meaning. Safe. -/
  | notModelled (mnemonic : String)
deriving DecidableEq, Repr

/-- The state after reset (R44, R250): every element of rule R20 is zero. POLY and NSLOT are the spec's defaults (R5) and the
ROM image is free (log entries 1 and 2); nothing is pending at the port, and the random source answers (R251 (b), log
entry 3). -/
def State.reset : State where
  sec := Vector.replicate 16 0
  sh := List.replicate Config.nslotDefault Slot.empty
  cb := Vector.replicate 16 0
  blen := 0
  w := Vector.replicate 12 0
  wcnt := 0
  idxr := 0
  wordin := 0
  wordout := 0
  gfa := 0
  gfb := 0
  gfr := 0
  errcode := 0
  errinfo := 0
  poly := Config.polyDefault
  rom := Config.rom
  rngQueue := []
  rngDrawn := 0
  rngAnswers := true
  port := []
  answers := []

end Sys2Proof.Machine
end

