-- ==== Sys2Proof/Machine/Operands.lean ====
section
/-!
DEFINITION. How the machine reads and forms its data: an operand of a command as a number (spec/30_encoding.md rule R91),
a slot and a word-buffer entry by number (spec/44_transfer.md rule R180), and the 32-bit registers of a byte buffer and of a
character register (spec/20_memory.md rules R65 and R69).
-/

namespace Sys2Proof.Machine

/-- An operand as it stands: an unsigned number 0 to 255, not extended, scaled or shifted (R91). -/
def operand (x : Byte) : Nat := x.toNat

/-- NSLOT, the number of share slots (R5, R24). -/
def State.nslot (s : State) : Nat := s.sh.length

/-- Slot k; the reset value of a slot for a k that is no slot number, which every command checks before (R180; DESIGN CHOICE,
log entry 8). -/
def State.slot (s : State) (k : Nat) : Slot := s.sh.getD k Slot.empty

/-- Entry W[j]; 0 for a j past the twelve entries, which no reachable state asks for (R26, R33; DESIGN CHOICE, log entry 8). -/
def wordAt (w : WordBuf) (j : Nat) : WordIdx := w.toList.getD j 0

/-- The bytes CB[0..BLEN-1]: the byte sequence the codec works on (R25). -/
def State.codecBytes (s : State) : List Byte := s.cb.toList.take s.blen.toNat

/-- The indices W[0..WCNT-1]: the mnemonic the codec works on (R26). -/
def State.codecWords (s : State) : List WordIdx := s.w.toList.take s.wcnt.toNat

/-- A chunk made of the first 16 bytes of a list, 0x00 where the list is shorter (R117). -/
def chunkOfList (bs : List Byte) : Chunk := Vector.ofFn fun p => bs.getD p.val 0

/-- A word buffer made of the first 12 indices of a list, 0 where the list is shorter (R116). -/
def wordBufOfList (xs : List WordIdx) : WordBuf := Vector.ofFn fun j => xs.getD j.val 0

/-- Byte i of a 32-bit value: bits [8i+7 : 8i] (R69). -/
def byteOf32 (v : Reg32) (i : Nat) : Byte := v.extractLsb' (8 * i) 8

/-- Register Xq of a 16-byte buffer X: X[4q] in bits [7:0] up to X[4q+3] in bits [31:24] (R69). -/
def chunkReg (x : Chunk) (q : Fin 4) : Reg32 :=
  (x[4 * q.val + 3] ++ x[4 * q.val + 2] ++ x[4 * q.val + 1] ++ x[4 * q.val] : BitVec 32)

/-- The buffer after a write of `v` to its register Xq: bytes X[4q..4q+3] are set, the others kept (R65, R69). -/
def setChunkReg (x : Chunk) (q : Fin 4) (v : Reg32) : Chunk :=
  Vector.ofFn fun p => if p.val / 4 = q.val then byteOf32 v (p.val % 4) else x[p]

/-- The low half of a character register: characters 0 to 3 (R61, R69). -/
def charsLo (x : Chars) : Reg32 := x.extractLsb' 0 32

/-- The high half of a character register: characters 4 to 7 (R61, R69). -/
def charsHi (x : Chars) : Reg32 := x.extractLsb' 32 32

/-- A character register from its two halves (R61, R69). -/
def charsOfHalves (hi lo : Reg32) : Chars := (hi ++ lo : BitVec 64)

end Sys2Proof.Machine
end

