-- ==== Sys2Proof/Machine/Bitstream.lean ====
section
/-!
DEFINITION. The mnemonic bitstream and the two pure functions of the packer (spec/40_mnemonic_codec.md rules R110 to
R112).
-/

namespace Sys2Proof.Machine

/-- Bit q of the bitstream of a byte sequence: bytes in order, each most significant bit first (R110); 0 past its end,
which is the fill of rule R111. -/
def byteStreamBit (b : List Byte) (q : Nat) : Bool := (b.getD (q / 8) 0).getLsbD (7 - q % 8)

/-- Bit q of the bitstream of an index sequence: indices in order, each most significant bit first (R110). -/
def wordStreamBit (x : List WordIdx) (q : Nat) : Bool := (x.getD (q / 11) 0).getLsbD (10 - q % 11)

/-- How many indices n bytes take: ceil(8n / 11) (R111). -/
def packedLength (n : Nat) : Nat := (8 * n + 10) / 11

/-- How many whole bytes w indices hold: floor(11w / 8) (R112). -/
def unpackedLength (w : Nat) : Nat := 11 * w / 8

/-- `pack` (R111): the byte bitstream cut into groups of 11 bits from the front, the last group filled with zero bits on
the right. -/
def pack (b : List Byte) : List WordIdx :=
  (List.range (packedLength b.length)).map fun j =>
    BitVec.ofFnBE fun t : Fin 11 => byteStreamBit b (11 * j + t.val)

/-- `unpack` (R112): the index bitstream cut into bytes from the front, the bits after the last whole byte dropped. -/
def unpack (x : List WordIdx) : List Byte :=
  (List.range (unpackedLength x.length)).map fun p =>
    BitVec.ofFnBE fun t : Fin 8 => wordStreamBit x (8 * p + t.val)

end Sys2Proof.Machine
end

