-- ==== Sys2Proof/WellFormed.lean ====
section
/-!
DEFINITION. What the spec calls legal before anything is executed: the lines of a host program (spec/30_encoding.md rule R97), the
register names for a given NSLOT (spec/20_memory.md rule R61), the configuration and the ROM image (spec/00_scope.md
rule R5, spec/10_state.md rule R40).

A command of `Instr` has no check of its own: its operands are 8-bit fields, and every value of them is an encoding of the
command (R91, R93). The check that a written operand is a number 0 to 255 is made on the line (R97), beside the model's own
checks of a line (DESIGN CHOICE, log entry 18).
-/

namespace Sys2Proof

/-- How many operands a command takes (the operands column of rule R92). -/
def Op.arity : Op → Nat
  | .fetch | .embed | .combine | .stsh => 1
  | .split | .ldsh => 2
  | .nop | .errclr | .zeroize | .wclr | .lookup | .pack | .unpack | .extract
  | .fadd | .fmul | .finv | .ldsec | .stsec => 0

/-- The register name is one rule R61 lists, for an SSCE of `nslot` slots. -/
def Reg.wellFormed (nslot : Nat) : Reg → Bool
  | .shidx k => decide (k < nslot)
  | .shpay k _ => decide (k < nslot)
  | .cmd | .errcode | .errinfo | .cfg | .idxr | .wcnt | .blen | .wordinLo | .wordinHi | .wordoutLo | .wordoutHi
  | .gfa | .gfb | .gfr | .sec _ | .cb _ | .w _ => true

/-- A line of a host program is legal. That every operand of a command is 0 to 255 is the spec's (R97: "A number out of 0 to
255 as an operand is an assembly error, not a command"). R97 names no other assembly error; that a line is illegal too when
its command has not as many operands as the row of R92 lists (`PACK 0`, `SPLIT 3`), when its register name is none of R61 for
this NSLOT, or when its written value does not fit a 32-bit register is the model's (DESIGN CHOICE, log entry 18). -/
def Line.wellFormed (nslot : Nat) : Line → Bool
  | .wr r v => r.wellFormed nslot && decide (v < 2 ^ 32)
  | .rd r => r.wellFormed nslot
  | .cmd op args => (args.length == op.arity) && args.all (fun a => decide (a < 256))

/-- POLY is one of the 30 values of rule R141. -/
abbrev LegalPoly (poly : BitVec 9) : Prop := poly ∈ Config.legalPolys

/-- NSLOT is in its range (R5). -/
abbrev LegalNslot (n : Nat) : Prop := 2 ≤ n ∧ n ≤ 255

/-- Character `c` of a word (R28, R40). -/
def charAt (x : Chars) (c : Nat) : Byte := x.extractLsb' (8 * c) 8

/-- One ROM entry has the form of rule R40 (a) and (b): at least one character, and 0x00 in every position at and after
the word's length. -/
abbrev LegalEntry (x : Chars) : Prop :=
  charAt x 0 ≠ 0 ∧ ∀ c, c < 7 → charAt x c = 0 → charAt x (c + 1) = 0

/-- The ROM image is legal (R40): every entry has the form of (a) and (b), and (c) the 2048 entries are pairwise different. -/
def LegalRom (d : Rom) : Prop :=
  (∀ i : Fin 2048, LegalEntry d[i]) ∧ ∀ i j : Fin 2048, d[i] = d[j] → i = j

end Sys2Proof
end

