-- ==== Sys2Proof/Decode.lean ====
section
/-!
DEFINITION. The command word and its decoding (spec/30_encoding.md rules R90 to R97): the decoder, total on every 32-bit
word and refusing by name; the encoder, written from the same table; the table of masks and matches of rule R92; and the
assembly of a command line of rule R97.
-/

namespace Sys2Proof

/-- Why a command word is illegal: the four conditions of rule R94. -/
inductive DecodeError where
  /-- (a) the reserved field Z is not 0. -/
  | reservedNonzero
  /-- (b) OP is none of the 19 opcodes. -/
  | unknownOpcode
  /-- (c) the command does not use B and B is not 0. -/
  | unusedB
  /-- (d) the command uses neither operand and A is not 0. -/
  | unusedA
deriving DecidableEq, Repr

/-- Field OP, bits [7:0] of the command word (R90). -/
def fieldOP (cw : Reg32) : Byte := cw.extractLsb' 0 8

/-- Field A, bits [15:8] of the command word (R90). -/
def fieldA (cw : Reg32) : Byte := cw.extractLsb' 8 8

/-- Field B, bits [23:16] of the command word (R90). -/
def fieldB (cw : Reg32) : Byte := cw.extractLsb' 16 8

/-- Field Z, bits [31:24] of the command word (R90). -/
def fieldZ (cw : Reg32) : Byte := cw.extractLsb' 24 8

/-- A command without operands: A and B must be 0 (R94 (c), (d)). -/
def decodeNone (i : Instr) (a b : Byte) : Except DecodeError Instr :=
  if b ≠ 0 then .error .unusedB else if a ≠ 0 then .error .unusedA else .ok i

/-- A command that uses A only: B must be 0 (R94 (c)). -/
def decodeA (f : Byte → Instr) (a b : Byte) : Except DecodeError Instr :=
  if b ≠ 0 then .error .unusedB else .ok (f a)

/-- A command that uses A and B (R91). -/
def decodeAB (f : Byte → Byte → Instr) (a b : Byte) : Except DecodeError Instr :=
  .ok (f a b)

/-- The opcode map of rule R92. -/
def decodeOp (op a b : Byte) : Except DecodeError Instr :=
  match op with
  | 0x00#8 => decodeNone .nop a b
  | 0x01#8 => decodeNone .errclr a b
  | 0x02#8 => decodeNone .zeroize a b
  | 0x10#8 => decodeNone .wclr a b
  | 0x11#8 => decodeNone .lookup a b
  | 0x12#8 => decodeA .fetch a b
  | 0x13#8 => decodeNone .pack a b
  | 0x14#8 => decodeNone .unpack a b
  | 0x18#8 => decodeA .embed a b
  | 0x19#8 => decodeNone .extract a b
  | 0x20#8 => decodeNone .fadd a b
  | 0x21#8 => decodeNone .fmul a b
  | 0x22#8 => decodeNone .finv a b
  | 0x28#8 => decodeAB .split a b
  | 0x29#8 => decodeA .combine a b
  | 0x30#8 => decodeNone .ldsec a b
  | 0x31#8 => decodeNone .stsec a b
  | 0x32#8 => decodeAB .ldsh a b
  | 0x33#8 => decodeA .stsh a b
  | _ => .error .unknownOpcode

/-- The decoder (R90 to R94): total, and an illegal word is refused by name. It checks OP, Z and the unused operand fields
only (R93). -/
def decode (cw : Reg32) : Except DecodeError Instr :=
  if fieldZ cw ≠ 0 then .error .reservedNonzero
  else decodeOp (fieldOP cw) (fieldA cw) (fieldB cw)

/-- The assembled command word OP | (A << 8) | (B << 16) with Z = 0 (R92). -/
def commandWord (op a b : Byte) : Reg32 := (0x00#8 ++ b ++ a ++ op : BitVec 32)

/-- The encoder: the command word of a command (R92). -/
def encode : Instr → Reg32
  | .nop => commandWord 0x00#8 0 0
  | .errclr => commandWord 0x01#8 0 0
  | .zeroize => commandWord 0x02#8 0 0
  | .wclr => commandWord 0x10#8 0 0
  | .lookup => commandWord 0x11#8 0 0
  | .fetch j => commandWord 0x12#8 j 0
  | .pack => commandWord 0x13#8 0 0
  | .unpack => commandWord 0x14#8 0 0
  | .embed i => commandWord 0x18#8 i 0
  | .extract => commandWord 0x19#8 0 0
  | .fadd => commandWord 0x20#8 0 0
  | .fmul => commandWord 0x21#8 0 0
  | .finv => commandWord 0x22#8 0 0
  | .split t n => commandWord 0x28#8 t n
  | .combine t => commandWord 0x29#8 t 0
  | .ldsec => commandWord 0x30#8 0 0
  | .stsec => commandWord 0x31#8 0 0
  | .ldsh k i => commandWord 0x32#8 k i
  | .stsh k => commandWord 0x33#8 k 0

/-- A row of the opcode table: a command word cw selects it when cw & mask = match (R92). -/
structure OpcodeRow where
  op : Op
  mask : Reg32
  pattern : Reg32
deriving DecidableEq, Repr

/-- The opcode table of rule R92, row by row, written from its mask and match columns and not from the decoder. -/
def opcodeTable : List OpcodeRow :=
  [⟨.nop, 0xFFFFFFFF#32, 0x00000000#32⟩, ⟨.errclr, 0xFFFFFFFF#32, 0x00000001#32⟩,
   ⟨.zeroize, 0xFFFFFFFF#32, 0x00000002#32⟩, ⟨.wclr, 0xFFFFFFFF#32, 0x00000010#32⟩,
   ⟨.lookup, 0xFFFFFFFF#32, 0x00000011#32⟩, ⟨.fetch, 0xFFFF00FF#32, 0x00000012#32⟩,
   ⟨.pack, 0xFFFFFFFF#32, 0x00000013#32⟩, ⟨.unpack, 0xFFFFFFFF#32, 0x00000014#32⟩,
   ⟨.embed, 0xFFFF00FF#32, 0x00000018#32⟩, ⟨.extract, 0xFFFFFFFF#32, 0x00000019#32⟩] ++
  [⟨.fadd, 0xFFFFFFFF#32, 0x00000020#32⟩, ⟨.fmul, 0xFFFFFFFF#32, 0x00000021#32⟩,
   ⟨.finv, 0xFFFFFFFF#32, 0x00000022#32⟩, ⟨.split, 0xFF0000FF#32, 0x00000028#32⟩,
   ⟨.combine, 0xFFFF00FF#32, 0x00000029#32⟩, ⟨.ldsec, 0xFFFFFFFF#32, 0x00000030#32⟩,
   ⟨.stsec, 0xFFFFFFFF#32, 0x00000031#32⟩, ⟨.ldsh, 0xFF0000FF#32, 0x00000032#32⟩,
   ⟨.stsh, 0xFFFF00FF#32, 0x00000033#32⟩]

/-- cw selects the row (R92). -/
def OpcodeRow.selects (row : OpcodeRow) (cw : Reg32) : Bool := (cw &&& row.mask) == row.pattern

/-- The name of a command, as the opcode table gives it. -/
def Instr.op : Instr → Op
  | .nop => .nop
  | .errclr => .errclr
  | .zeroize => .zeroize
  | .wclr => .wclr
  | .lookup => .lookup
  | .fetch _ => .fetch
  | .pack => .pack
  | .unpack => .unpack
  | .embed _ => .embed
  | .extract => .extract
  | .fadd => .fadd
  | .fmul => .fmul
  | .finv => .finv
  | .split _ _ => .split
  | .combine _ => .combine
  | .ldsec => .ldsec
  | .stsec => .stsec
  | .ldsh _ _ => .ldsh
  | .stsh _ => .stsh

/-- The opcode number of a command name (R92). -/
def Op.code : Op → Byte
  | .nop => 0x00#8
  | .errclr => 0x01#8
  | .zeroize => 0x02#8
  | .wclr => 0x10#8
  | .lookup => 0x11#8
  | .fetch => 0x12#8
  | .pack => 0x13#8
  | .unpack => 0x14#8
  | .embed => 0x18#8
  | .extract => 0x19#8
  | .fadd => 0x20#8
  | .fmul => 0x21#8
  | .finv => 0x22#8
  | .split => 0x28#8
  | .combine => 0x29#8
  | .ldsec => 0x30#8
  | .stsec => 0x31#8
  | .ldsh => 0x32#8
  | .stsh => 0x33#8

/-- The register numbers of rule R61. -/
def Reg.number : Reg → Nat
  | .cmd => 0x000
  | .errcode => 0x001
  | .errinfo => 0x002
  | .cfg => 0x003
  | .idxr => 0x004
  | .wcnt => 0x005
  | .blen => 0x006
  | .wordinLo => 0x008
  | .wordinHi => 0x009
  | .wordoutLo => 0x00A
  | .wordoutHi => 0x00B
  | .gfa => 0x00C
  | .gfb => 0x00D
  | .gfr => 0x00E
  | .sec q => 0x010 + q.val
  | .cb q => 0x014 + q.val
  | .w j => 0x020 + j.val
  | .shidx k => 0x100 + 8 * k
  | .shpay k q => 0x100 + 8 * k + 4 + q.val

/-- The event a legal line of a host program stands for (R97): `WR` a port write, `RD` a port read, a mnemonic a write of
its command word to CMD. An illegal line is an assembly error and stands for nothing; which lines are illegal beside those
R97 names is the model's (`Line.wellFormed`; DESIGN CHOICE, log entry 18). -/
def Line.assemble (nslot : Nat) (l : Line) : Option Event :=
  if l.wellFormed nslot then
    match l with
    | .wr r v => some (.write (BitVec.ofNat 12 r.number) (BitVec.ofNat 32 v))
    | .rd r => some (.read (BitVec.ofNat 12 r.number))
    | .cmd op args =>
      some (.write 0 (commandWord op.code (BitVec.ofNat 8 (args.getD 0 0)) (BitVec.ofNat 8 (args.getD 1 0))))
  else none

/-- The instruction the decoder reads from a table word: the SSCE stores a command word as the one 32-bit value of a CMD
write (R90, R96), so the word is handed to the decoder as it is. A number that is no 32-bit word is no command word (DESIGN CHOICE, log entry 11). -/
def decodeTableWord (nbits w : Nat) : Option Instr :=
  if nbits ≤ 32 ∧ w < 2 ^ 32 then (decode (BitVec.ofNat 32 w)).toOption else none

end Sys2Proof
end

