-- ==== Sys2Proof/Machine/Flags.lean ====
section
/-!
DEFINITION. The error codes (spec/60_exceptions.md rule R220) and the SSCE's one flag, the error latch (spec/10_state.md
rule R30).
-/

namespace Sys2Proof.Machine

/-- The errors of rule R220. The engine raises eight of them; `unknownTag`, `ambiguousPrefix` and `chunkCountMismatch` have a
code and are raised by host software only. -/
inductive Err where
  | unknownWord
  | unknownTag
  | ambiguousPrefix
  | malformedWord
  | invalidLength
  | chunkCountMismatch
  | insufficientShares
  | duplicateIndex
  | illegalCommand
  | badParameter
deriving DecidableEq, Repr

/-- The code of an error in ERRCODE[7:0] (R220). -/
def Err.code : Err → Byte
  | .unknownWord => 0x01
  | .unknownTag => 0x02
  | .ambiguousPrefix => 0x03
  | .malformedWord => 0x04
  | .invalidLength => 0x05
  | .chunkCountMismatch => 0x06
  | .insufficientShares => 0x07
  | .duplicateIndex => 0x08
  | .illegalCommand => 0x10
  | .badParameter => 0x11

/-- The values of ERRCODE that can occur (R31): 0 and the codes the engine raises. -/
def occurringCodes : List Byte := [0x00, 0x01, 0x04, 0x05, 0x07, 0x08, 0x10, 0x11]

/-- The error latch: ERRCODE ≠ 0 (R30). -/
def State.latched (s : State) : Bool := s.errcode != 0

end Sys2Proof.Machine
end

