-- ==== Sys2Proof/Machine/Ops.lean ====
section
/-!
DEFINITION. The operations the commands share: the gate of the error latch, error entry and the return from it
(spec/60_exceptions.md rules R224, R226 and R227), the random source (spec/20_memory.md rule R70), the dictionary ROM (R68),
the writes of whole buffers, and the two ways to clear the machine (spec/45_system.md rule R192, spec/70_reset_and_hazards.md
rule R250).
-/

namespace Sys2Proof.Machine

/-- What a command or a step answers. -/
abbrev Answer := Host.Outcome State Fault Refusal

/-- The gate of the error latch (R95 first branch, R226): while the latch is set the command is dropped, with no state
change at all. -/
def unlessLatched (s : State) (k : Answer) : Answer := if s.latched then .next s else k

/-- Error entry (R224): ERRCODE takes the error's code, ERRINFO the command word, and nothing else changes. -/
def latchError (e : Err) (cw : Reg32) (s : State) : State := { s with errcode := e.code, errinfo := cw }

/-- `raise <Error>(cw)` of the spec's pseudocode (R224): the command ends in the state error entry gives. -/
def raise (e : Err) (cw : Reg32) (s : State) : Answer := .next (latchError e cw s)

/-- The return from an error (R227): ERRCODE and ERRINFO are cleared, nothing else. -/
def clearLatch (s : State) : State := { s with errcode := 0, errinfo := 0 }

/-- The random source after some draws: the bytes still laid out, and how many have been drawn (R70). -/
def putRng (q : List Byte) (d : Nat) (s : State) : State := { s with rngQueue := q, rngDrawn := d }

/-- `RngDraw()` (R70): one byte from the random source, and the source after it. A byte laid out beforehand comes first;
where none is, the byte is a free value, or there is no answer if the source is silent. -/
def rngDraw (s : State) : Option (Byte × State) :=
  match s.rngQueue with
  | b :: rest => some (b, putRng rest (s.rngDrawn + 1) s)
  | [] => if s.rngAnswers then some (Config.rngByte s.rngDrawn, putRng [] (s.rngDrawn + 1) s) else none

/-- `n` successive draws, first one first (R162). -/
def rngDraws : Nat → State → Option (List Byte × State)
  | 0, s => some ([], s)
  | n + 1, s =>
    match rngDraw s with
    | none => none
    | some (b, s1) =>
      match rngDraws n s1 with
      | none => none
      | some (bs, s2) => some (b :: bs, s2)

/-- `RomRead(i)`: entry DICT[i] (R68). -/
def romRead (d : Rom) (i : WordIdx) : Chars := d[i.toNat]'i.isLt

/-- The least index whose entry equals the word on all 64 bits, if there is one (R114), for a legal ROM image or not (DEDUCED, log
entry 9). -/
def romFind (d : Rom) (x : Chars) : Option WordIdx :=
  (d.toList.findIdx? (fun entry => entry == x)).map (BitVec.ofNat 11)

/-- The word buffer is replaced, its count kept (R131, R132). -/
def putW (ws : WordBuf) (s : State) : State := { s with w := ws }

/-- The word buffer and its count are replaced (R113, R116). -/
def putWords (ws : WordBuf) (n : BitVec 4) (s : State) : State := { s with w := ws, wcnt := n }

/-- The codec byte buffer and its length are replaced (R117, R182, R184). -/
def putCodec (bs : Chunk) (n : BitVec 5) (s : State) : State := { s with cb := bs, blen := n }

/-- The secret chunk is replaced (R165, R181). -/
def putSec (c : Chunk) (s : State) : State := { s with sec := c }

/-- Slot k is replaced (R183); the number of slots stays. -/
def putSlot (k : Nat) (x : Slot) (s : State) : State := { s with sh := s.sh.set k x }

/-- The whole slot file is replaced (R163). -/
def putSlots (xs : List Slot) (s : State) : State := { s with sh := xs }

/-- The fetched word is written (R115). -/
def putWordout (x : Chars) (s : State) : State := { s with wordout := x }

/-- The word to look up is written (R61). -/
def putWordin (x : Chars) (s : State) : State := { s with wordin := x }

/-- The first operand of the field commands is written (R61). -/
def putGfa (x : Byte) (s : State) : State := { s with gfa := x }

/-- The second operand of the field commands is written (R61). -/
def putGfb (x : Byte) (s : State) : State := { s with gfb := x }

/-- The extracted index is written (R132). -/
def putIdxr (x : BitVec 4) (s : State) : State := { s with idxr := x }

/-- The pending events of the port are replaced (R7). -/
def putPort (p : List Event) (s : State) : State := { s with port := p }

/-- The answer to a port read is appended (R62). -/
def addAnswer (v : Reg32) (s : State) : State := { s with answers := s.answers ++ [v] }

/-- The result register of the field commands is written (R150 to R152). -/
def putGfr (x : Byte) (s : State) : State := { s with gfr := x }

/-- Every element of rule R20 except ERRCODE and ERRINFO takes its reset value (R192). The configuration, the random source
and the host's side of the port are no elements of rule R20. -/
def zeroized (s : State) : State :=
  { s with
    sec := Vector.replicate 16 0
    sh := List.replicate s.nslot Slot.empty
    cb := Vector.replicate 16 0
    blen := 0
    w := Vector.replicate 12 0
    wcnt := 0
    idxr := 0
    wordin := 0
    wordout := 0
    gfa := 0
    gfb := 0
    gfr := 0 }

/-- The reset event (R250): every element of architectural state takes the value of rule R44; CFG and the ROM are the
same before and after. The random source and the host's side of the port are no part of the SSCE and stay. -/
def resetEvent (s : State) : State :=
  { State.reset with
    sh := List.replicate s.nslot Slot.empty
    poly := s.poly
    rom := s.rom
    rngQueue := s.rngQueue
    rngDrawn := s.rngDrawn
    rngAnswers := s.rngAnswers
    port := s.port
    answers := s.answers }

end Sys2Proof.Machine
end

