-- ==== Sys2Proof/Machine/Codec.lean ====
section
/-!
DEFINITION. The mnemonic codec: WCLR, LOOKUP, FETCH, PACK and UNPACK (spec/40_mnemonic_codec.md rules R113 to R117).
-/

namespace Sys2Proof.Machine

/-- WCLR (R113): the word buffer and its count become 0. -/
def execWclr (s : State) : Answer :=
  unlessLatched s (.next (putWords (Vector.replicate 12 0) 0 s))

/-- LOOKUP (R114): the index of WORDIN is appended to the word buffer. A thirteenth word raises MalformedWordError before
the dictionary is searched, an absent word UnknownWordError. -/
def execLookup (s : State) : Answer :=
  unlessLatched s <|
    if s.wcnt = 12 then raise .malformedWord (encode .lookup) s
    else .next <|
      match romFind s.rom s.wordin with
      | none => latchError .unknownWord (encode .lookup) s
      | some i => putWords (s.w.setIfInBounds s.wcnt.toNat i) (s.wcnt + 1) s

/-- FETCH j (R115): the characters of the word at position j of the word buffer go to WORDOUT. -/
def execFetch (j : Byte) (s : State) : Answer :=
  unlessLatched s <|
    if operand j ≥ s.wcnt.toNat then raise .badParameter (encode (.fetch j)) s
    else .next (putWordout (romRead s.rom (wordAt s.w (operand j))) s)

/-- PACK (R116): the codec bytes are packed into word indices; the entries past them become 0. -/
def execPack (s : State) : Answer :=
  unlessLatched s <|
    let x := pack s.codecBytes
    .next (putWords (wordBufOfList x) (BitVec.ofNat 4 x.length) s)

/-- UNPACK (R117): the word indices are unpacked into codec bytes; the bytes past them become 0. -/
def execUnpack (s : State) : Answer :=
  unlessLatched s <|
    let b := unpack s.codecWords
    .next (putCodec (chunkOfList b) (BitVec.ofNat 5 b.length) s)

end Sys2Proof.Machine
end

