-- ==== Sys2Proof/Machine/Gf256.lean ====
section
/-!
DEFINITION. The arithmetic of the SSCE: the pure functions of GF(256) (spec/42_field.md rules R140 to R146), over any
field polynomial.
-/

namespace Sys2Proof.Machine

/-- Addition, and subtraction: exclusive or (R142). -/
def gfadd (a b : Byte) : Byte := a ^^^ b

/-- One shift of rule R143: a times x, reduced modulo POLY. -/
def xtime (poly : BitVec 9) (a : Byte) : Byte :=
  if a.getLsbD 7 then (a <<< 1) ^^^ poly.setWidth 8 else a <<< 1

/-- `n` rounds of the loop of rule R143, from the accumulator p and the shifted operands a and b. -/
def gfmulLoop (poly : BitVec 9) : Nat → Byte → Byte → Byte → Byte
  | 0, p, _, _ => p
  | n + 1, p, a, b => gfmulLoop poly n (if b.getLsbD 0 then p ^^^ a else p) (xtime poly a) (b >>> 1)

/-- Multiplication: the product of the two polynomials reduced modulo POLY, by the 8 rounds of rule R143. -/
def gfmul (poly : BitVec 9) (a b : Byte) : Byte := gfmulLoop poly 8 0 a b

/-- Power (R144). -/
def gfpow (poly : BitVec 9) (a : Byte) : Nat → Byte
  | 0 => 0x01
  | e + 1 => gfmul poly (gfpow poly a e) a

/-- Inverse: the 254th power (R144). The spec does not define it at 0, and no command evaluates it there (DEDUCED, log entry
7). -/
def gfinv (poly : BitVec 9) (a : Byte) : Byte := gfpow poly a 254

/-- The value of a polynomial, coefficients from the constant term up, by Horner's form (R145). -/
def polyeval (poly : BitVec 9) (c : List Byte) (x : Byte) : Byte :=
  c.foldr (fun cj y => gfmul poly y x ^^^ cj) 0

/-- The Lagrange weight at zero of the j-th element of xs (R146): the product, over the other elements, of x_m / (x_m ^ x_j). -/
def lagrange0 (poly : BitVec 9) (xs : List Byte) (j : Nat) : Byte :=
  (xs.eraseIdx j).foldl (fun acc xm => gfmul poly acc (gfmul poly xm (gfinv poly (xm ^^^ xs.getD j 0)))) 0x01

end Sys2Proof.Machine
end

