-- ==== Sys2Proof/Machine/Field.lean ====
section
/-!
DEFINITION. The field commands FADD, FMUL and FINV (spec/42_field.md rules R150 to R152).
-/

namespace Sys2Proof.Machine

/-- FADD (R150): GFR becomes GFA ^ GFB. -/
def execFadd (s : State) : Answer := unlessLatched s (.next (putGfr (gfadd s.gfa s.gfb) s))

/-- FMUL (R151): GFR becomes the field product of GFA and GFB. -/
def execFmul (s : State) : Answer := unlessLatched s (.next (putGfr (gfmul s.poly s.gfa s.gfb) s))

/-- FINV (R152): GFR becomes the field inverse of GFA; BadParameterError if GFA is 0. -/
def execFinv (s : State) : Answer :=
  unlessLatched s <|
    if s.gfa = 0 then raise .badParameter (encode .finv) s
    else .next (putGfr (gfinv s.poly s.gfa) s)

end Sys2Proof.Machine
end

