-- ==== Sys2Proof/Machine/Shamir.lean ====
section
/-!
DEFINITION. Shamir split and combine of one chunk: SPLIT and COMBINE (spec/43_shamir.md rules R160 to R166).
-/

namespace Sys2Proof.Machine

/-- The coefficients a[p][0..t-1] of lane p (R162): the secret byte, then its t-1 draws r[(t-1)p .. (t-1)p + t-2]. -/
def laneCoeffs (sec : Chunk) (r : List Byte) (t : Nat) (p : Fin 16) : List Byte :=
  sec[p] :: ((r.drop ((t - 1) * p.val)).take (t - 1))

/-- The share SPLIT puts into slot k (R161, R163): index k+1, and each lane's polynomial at x = k+1. -/
def shareSlot (poly : BitVec 9) (sec : Chunk) (r : List Byte) (t k : Nat) : Slot where
  valid := true
  idx := BitVec.ofNat 8 (k + 1)
  pay := Vector.ofFn fun p => polyeval poly (laneCoeffs sec r t p) (BitVec.ofNat 8 (k + 1))

/-- The slot file after a SPLIT t, n (R163): slots below n hold the shares, the others are cleared. -/
def splitSlots (poly : BitVec 9) (sec : Chunk) (r : List Byte) (t n nslot : Nat) : List Slot :=
  (List.range nslot).map fun k => if k < n then shareSlot poly sec r t k else Slot.empty

/-- SPLIT t, n (R163): the chunk in SEC is split into n shares with threshold t, with 16(t-1) draws. The command has no
completing step if the random source does not answer them all (R70). -/
def execSplit (t n : Byte) (s : State) : Answer :=
  unlessLatched s <|
    if ¬ (2 ≤ operand t ∧ operand t ≤ operand n ∧ operand n ≤ s.nslot) then
      raise .badParameter (encode (.split t n)) s
    else
      match rngDraws (16 * (operand t - 1)) s with
      | none => .fault .rngSilent
      | some (r, s1) => .next (putSlots (splitSlots s.poly s.sec r (operand t) (operand n) s.nslot) s1)

/-- The valid slots, in ascending order of their numbers: `sel` of rule R165. -/
def validSlots (sh : List Slot) : List Slot := sh.filter (fun x => x.valid)

/-- The chunk COMBINE recovers (R165): lane by lane, the exclusive or of the payload bytes times the Lagrange weights. -/
def combineChunk (poly : BitVec 9) (sel : List Slot) : Chunk :=
  let xs := sel.map (fun x => x.idx)
  let weights := (List.range xs.length).map (lagrange0 poly xs)
  Vector.ofFn fun p =>
    (List.zipWith (fun (x : Slot) l => gfmul poly x.pay[p] l) sel weights).foldl (fun acc y => acc ^^^ y) 0

/-- COMBINE t (R165): the chunk is recovered from all the valid slots, of which there must be at least t. The checks are in
the order of rule R222: t, index 0, equal indices, too few shares. -/
def execCombine (t : Byte) (s : State) : Answer :=
  unlessLatched s <|
    let sel := validSlots s.sh
    let xs : List Byte := sel.map (fun x => x.idx)
    if ¬ (2 ≤ operand t ∧ operand t ≤ s.nslot) then raise .badParameter (encode (.combine t)) s
    else if 0 ∈ xs then raise .badParameter (encode (.combine t)) s
    else if ¬ xs.Nodup then raise .duplicateIndex (encode (.combine t)) s
    else if sel.length < operand t then raise .insufficientShares (encode (.combine t)) s
    else .next (putSec (combineChunk s.poly sel) s)

end Sys2Proof.Machine
end

