-- ==== Sys2Proof/Machine/ShareCoder.lean ====
section
/-!
DEFINITION. The share-index field of the last word: EMBED and EXTRACT (spec/41_sharecoder.md rules R130 to R132).
-/

namespace Sys2Proof.Machine

/-- The index field, bits [3:0] of a last word (R130). -/
def indexField (x : WordIdx) : BitVec 4 := x.extractLsb' 0 4

/-- A last word with its index field cleared: x & 0x7F0 (R132). -/
def clearIndexField (x : WordIdx) : WordIdx := x &&& 0x7F0#11

/-- A last word whose index field is overwritten: (x & 0x7F0) | i (R131). -/
def setIndexField (x : WordIdx) (i : Byte) : WordIdx := clearIndexField x ||| i.setWidth 11

/-- EMBED i (R131): share index i, 1 to 15, is written into the index field of W[11]. -/
def execEmbed (i : Byte) (s : State) : Answer :=
  unlessLatched s <|
    if operand i < 1 ∨ operand i > 15 then raise .badParameter (encode (.embed i)) s
    else if s.wcnt ≠ 12 then raise .malformedWord (encode (.embed i)) s
    else .next (putW (s.w.set 11 (setIndexField s.w[11] i)) s)

/-- EXTRACT (R132): the index field of W[11] is read into IDXR and cleared in the buffer. -/
def execExtract (s : State) : Answer :=
  unlessLatched s <|
    if s.wcnt ≠ 12 then raise .malformedWord (encode .extract) s
    else .next (putIdxr (indexField s.w[11]) (putW (s.w.set 11 (clearIndexField s.w[11])) s))

end Sys2Proof.Machine
end

