-- ==== Sys2Proof/Machine/System.lean ====
section
/-!
DEFINITION. The system commands NOP, ERRCLR and ZEROIZE (spec/45_system.md rules R190 to R192).
-/

namespace Sys2Proof.Machine

/-- NOP (R190): no state change. -/
def execNop (s : State) : Answer := unlessLatched s (.next s)

/-- ERRCLR (R191): clears the error latch; executes whether or not the latch is set. -/
def execErrclr (s : State) : Answer := .next (clearLatch s)

/-- ZEROIZE (R192): every data buffer becomes zero, the error latch stays; executes whether or not the latch is set. -/
def execZeroize (s : State) : Answer := .next (zeroized s)

end Sys2Proof.Machine
end

