-- ==== Sys2Proof/Machine/Transfer.lean ====
section
/-!
DEFINITION. Chunk transfer: LDSEC, STSEC, LDSH and STSH (spec/44_transfer.md rules R180 to R184).
-/

namespace Sys2Proof.Machine

/-- LDSEC (R181): the secret chunk is loaded from the codec buffer, which must hold exactly one chunk. -/
def execLdsec (s : State) : Answer :=
  unlessLatched s <|
    if s.blen ≠ 16 then raise .invalidLength (encode .ldsec) s
    else .next (putSec s.cb s)

/-- STSEC (R182): the secret chunk is stored to the codec buffer. -/
def execStsec (s : State) : Answer := unlessLatched s (.next (putCodec s.sec 16 s))

/-- LDSH k, i (R183): share slot k is loaded from the codec buffer with index i; the operands are checked before the
length. -/
def execLdsh (k i : Byte) (s : State) : Answer :=
  unlessLatched s <|
    if operand k ≥ s.nslot ∨ i = 0 then raise .badParameter (encode (.ldsh k i)) s
    else if s.blen ≠ 16 then raise .invalidLength (encode (.ldsh k i)) s
    else .next (putSlot (operand k) ⟨true, i, s.cb⟩ s)

/-- STSH k (R184): the payload of share slot k, which must be valid, is stored to the codec buffer. -/
def execStsh (k : Byte) (s : State) : Answer :=
  unlessLatched s <|
    if operand k ≥ s.nslot ∨ (s.slot (operand k)).valid = false then raise .badParameter (encode (.stsh k)) s
    else .next (putCodec (s.slot (operand k)).pay 16 s)

end Sys2Proof.Machine
end

