-- ==== Sys2Proof/Machine/Dispatch.lean ====
section
/-!
DEFINITION. What each command does: one arm per constructor of `Instr`, each one call of the command's own meaning
(spec/30_encoding.md rule R95, last line: execute the matching command's rule on (A, B)).
-/

namespace Sys2Proof.Machine

/-- The effect of one decoded command on the state, the gate of the error latch included (R95). -/
def exec (i : Instr) (s : State) : Host.Outcome State Fault Refusal :=
  match i with
  | .nop => Sys2Proof.Machine.execNop s
  | .errclr => Sys2Proof.Machine.execErrclr s
  | .zeroize => Sys2Proof.Machine.execZeroize s
  | .wclr => Sys2Proof.Machine.execWclr s
  | .lookup => Sys2Proof.Machine.execLookup s
  | .fetch j => Sys2Proof.Machine.execFetch j s
  | .pack => Sys2Proof.Machine.execPack s
  | .unpack => Sys2Proof.Machine.execUnpack s
  | .embed k => Sys2Proof.Machine.execEmbed k s
  | .extract => Sys2Proof.Machine.execExtract s
  | .fadd => Sys2Proof.Machine.execFadd s
  | .fmul => Sys2Proof.Machine.execFmul s
  | .finv => Sys2Proof.Machine.execFinv s
  | .split t n => Sys2Proof.Machine.execSplit t n s
  | .combine t => Sys2Proof.Machine.execCombine t s
  | .ldsec => Sys2Proof.Machine.execLdsec s
  | .stsec => Sys2Proof.Machine.execStsec s
  | .ldsh k x => Sys2Proof.Machine.execLdsh k x s
  | .stsh k => Sys2Proof.Machine.execStsh k s

end Sys2Proof.Machine
end

