-- ==== Sys2Proof/Machine/Port.lean ====
section
/-!
DEFINITION. The registers of the host port: the register map (spec/20_memory.md rule R61), port reads (R62), and port
writes of every register but CMD (R63, R65 to R67). A write to CMD is in Machine/Engine.lean.
-/

namespace Sys2Proof.Machine

/-- The control, status, character and field registers: register numbers 0x000 to 0x00F (R61). -/
def controlRegAt : Nat → Option Reg
  | 0x000 => some .cmd
  | 0x001 => some .errcode
  | 0x002 => some .errinfo
  | 0x003 => some .cfg
  | 0x004 => some .idxr
  | 0x005 => some .wcnt
  | 0x006 => some .blen
  | 0x008 => some .wordinLo
  | 0x009 => some .wordinHi
  | 0x00A => some .wordoutLo
  | 0x00B => some .wordoutHi
  | 0x00C => some .gfa
  | 0x00D => some .gfb
  | 0x00E => some .gfr
  | _ => none

/-- The registers of the buffers SEC, CB and W: register numbers 0x010 to 0x0FF (R61). -/
def bufferRegAt (n : Nat) : Option Reg :=
  if h : 0x010 ≤ n ∧ n < 0x014 then some (.sec ⟨n - 0x010, by omega⟩)
  else if h : 0x014 ≤ n ∧ n < 0x018 then some (.cb ⟨n - 0x014, by omega⟩)
  else if h : 0x020 ≤ n ∧ n < 0x02C then some (.w ⟨n - 0x020, by omega⟩)
  else none

/-- The registers of the share slots, by the distance m of the register number from 0x100: eight numbers for each slot,
SHIDXk at the first, SHPAYk_0 to SHPAYk_3 at the last four (R61). -/
def slotRegAt (nslot m : Nat) : Option Reg :=
  if m / 8 < nslot then
    if m % 8 = 0 then some (.shidx (m / 8))
    else if h : 4 ≤ m % 8 then some (.shpay (m / 8) ⟨m % 8 - 4, by omega⟩)
    else none
  else none

/-- The register that register number n names, for an SSCE of `nslot` slots (R61); none if n is unmapped. -/
def regAtNumber (nslot n : Nat) : Option Reg :=
  if n < 0x010 then controlRegAt n
  else if n < 0x100 then bufferRegAt n
  else slotRegAt nslot (n - 0x100)

/-- The register a port access of `r` reaches, if any (R61, R67). -/
def State.regAt (s : State) (r : RegNum) : Option Reg := regAtNumber s.nslot r.toNat

/-- CFG: NSLOT in bits [7:0], POLY in bits [16:8], 0 above (R31); the low 8 bits of an NSLOT that is too large (DESIGN CHOICE, log
entry 12). -/
def cfgReg (s : State) : Reg32 := (0#15 ++ s.poly ++ BitVec.ofNat 8 s.nslot : BitVec 32)

/-- SHIDXk: the index in bits [7:0], the valid bit in bit [8], 0 above (R61). -/
def shidxReg (x : Slot) : Reg32 := (0#23 ++ BitVec.ofBool x.valid ++ x.idx : BitVec 32)

/-- The 32-bit value of a register (R31, R61, R62): its fields in their places, 0 in every other bit. CMD reads 0 (R64). -/
def readReg (s : State) : Reg → Reg32
  | .cmd => 0
  | .errcode => s.errcode.setWidth 32
  | .errinfo => s.errinfo
  | .cfg => cfgReg s
  | .idxr => s.idxr.setWidth 32
  | .wcnt => s.wcnt.setWidth 32
  | .blen => s.blen.setWidth 32
  | .wordinLo => charsLo s.wordin
  | .wordinHi => charsHi s.wordin
  | .wordoutLo => charsLo s.wordout
  | .wordoutHi => charsHi s.wordout
  | .gfa => s.gfa.setWidth 32
  | .gfb => s.gfb.setWidth 32
  | .gfr => s.gfr.setWidth 32
  | .sec q => chunkReg s.sec q
  | .cb q => chunkReg s.cb q
  | .w j => s.w[j].setWidth 32
  | .shidx k => shidxReg (s.slot k)
  | .shpay k q => chunkReg (s.slot k).pay q

/-- `PortRead(r)` (R62): the value of the register, 0 for an unmapped register number (R67). It changes nothing. -/
def portRead (r : RegNum) (s : State) : Reg32 :=
  match s.regAt r with
  | none => 0
  | some x => readReg s x

/-- A host write of `v` to a register other than CMD (R63): each field of an RW register takes the bits of `v` in its place
and no other (R65), WCNT and BLEN only if the whole value is legal (R66), an RO register keeps its value. -/
def writeReg (v : Reg32) (s : State) : Reg → State
  | .wcnt => if v.toNat ≤ 12 then putWords s.w (v.setWidth 4) s else s
  | .blen => if v.toNat ≤ 16 then putCodec s.cb (v.setWidth 5) s else s
  | .wordinLo => putWordin (charsOfHalves (charsHi s.wordin) v) s
  | .wordinHi => putWordin (charsOfHalves v (charsLo s.wordin)) s
  | .gfa => putGfa (v.setWidth 8) s
  | .gfb => putGfb (v.setWidth 8) s
  | .sec q => putSec (setChunkReg s.sec q v) s
  | .cb q => putCodec (setChunkReg s.cb q v) s.blen s
  | .w j => putW (s.w.set j.val (v.setWidth 11)) s
  | .shidx k => putSlot k { s.slot k with valid := v.getLsbD 8, idx := v.setWidth 8 } s
  | .shpay k q => putSlot k { s.slot k with pay := setChunkReg (s.slot k).pay q v } s
  | .cmd | .errcode | .errinfo | .cfg | .idxr | .wordoutLo | .wordoutHi | .gfr => s

/-- A host write to a register number that is not CMD's (R63, R67): an unmapped number ignores it. -/
def writeRegAt (r : RegNum) (v : Reg32) (s : State) : State :=
  match s.regAt r with
  | none => s
  | some x => writeReg v s x

end Sys2Proof.Machine
end

