-- ==== Sys2Proof/Machine/Engine.lean ====
section
/-!
DEFINITION. The engine's step on a command word (spec/30_encoding.md rule R95), a whole port write (spec/20_memory.md rules
R63 and R64), and the service of one event of the outside world (spec/00_scope.md rules R6 and R7,
spec/70_reset_and_hazards.md rule R250).
-/

namespace Sys2Proof.Machine

/-- The engine's step on a command word (R95): a legal word runs its command, an illegal one raises IllegalCommandError
(R94) unless the latch is set. The gate of the latch stands in each command's meaning (DEDUCED, log entry 6). -/
def runCommand (cw : Reg32) (s : State) : Answer :=
  match decode cw with
  | .ok i => exec i s
  | .error _ => unlessLatched s (raise .illegalCommand cw s)

/-- `PortWrite(r, v)` (R63): a write to CMD, register number 0x000, runs the command word (R64); any other register is
written whatever the error latch is. -/
def portWrite (r : RegNum) (v : Reg32) (s : State) : Answer :=
  if r = 0x000 then runCommand v s else .next (writeRegAt r v s)

/-- A command that would wait for ever is abandoned, without effect of its own, if a reset is what comes next (R250; DEDUCED,
log entry 5). -/
def abandonAtReset (s : State) (a : Answer) : Answer :=
  match a, s.port with
  | .fault .rngSilent, .reset :: rest => .next (resetEvent (putPort rest s))
  | _, _ => a

/-- The service of one event, in a state from whose port it has been taken: a read is answered and changes nothing else
(R62), a write is performed (R63), a reset is applied (R250). -/
def serve (e : Event) (s : State) : Answer :=
  match e with
  | .read r => .next (addAnswer (portRead r s) s)
  | .write r v => abandonAtReset s (portWrite r v s)
  | .reset => .next (resetEvent s)

/-- One transaction of the port, in the order the host issued them (R7, R60, R76). With none pending nothing happens: the
engine has no step of its own at any other time (R6; DESIGN CHOICE, log entry 4). -/
def nextTransaction (s : State) : Answer :=
  match s.port with
  | [] => .next s
  | e :: rest => serve e (putPort rest s)

/-- A write of the command word `cw` to CMD is put first at the port. -/
def State.issue (s : State) (cw : Reg32) : State := putPort (.write 0x000 cw :: s.port) s

end Sys2Proof.Machine
end

