-- ==== Sys2Proof/Machine/Step.lean ====
section
/-!
DEFINITION. One step of the machine: the next transaction of the host port (spec/00_scope.md rules R6 and R7). A command is
one atomic step, placed at its CMD write (spec/20_memory.md rule R76, spec/30_encoding.md rule R95).
-/

namespace Sys2Proof.Machine

/-- One step: the next pending port transaction or reset is served. -/
def step (s : State) : Host.Outcome State Fault Refusal := nextTransaction s

/-- The state with an instruction placed where the step takes its next one: the SSCE fetches nothing (R2), so the command
word becomes the value of a CMD write that is first at the port (DESIGN CHOICE, log entry 11). -/
def State.withFetchWord (s : State) (nbits w : Nat) : State := s.issue (BitVec.ofNat (min nbits 32) w |>.setWidth 32)

end Sys2Proof.Machine
end

