-- ==== Sys2Proof/Machine/HostSeq.lean ====
section
/-!
DEFINITION. The host sequences of spec/46_host_sequences.md rules R200 to R207: the pseudo-instructions of spec/30_encoding.md
rule R98, each as a script of port transactions in which the host may look at what a read returned before it goes on.
They are the spec's own way of driving the commands, no commands of their own (their form is a DESIGN CHOICE, log entry 10).
-/

namespace Sys2Proof.Machine

/-- A host sequence: port reads and writes one at a time, in the order the host issues them (R6, R97), ending in a
result. What follows a read may depend on the value read. -/
inductive Script (α : Type) where
  | done (a : α)
  | rd (r : Reg) (k : Reg32 → Script α)
  | wr (r : Reg) (v : Reg32) (k : Script α)

/-- One sequence, then another that may use its result. -/
def Script.andThen {α β : Type} : Script α → (α → Script β) → Script β
  | .done a, f => f a
  | .rd r k, f => .rd r fun v => (k v).andThen f
  | .wr r v k, f => .wr r v (k.andThen f)

/-- Why the host gives up: an error with a code of rule R220, or more groups than the SSCE has slots (R206). -/
inductive HostError where
  | code (c : Byte)
  | tooManyGroups
deriving DecidableEq, Repr

/-- One sequence, then another unless the first one failed (R200: "stop at the first error"). -/
def Script.orStop {α β : Type} (c : Script (Except HostError α)) (f : α → Script (Except HostError β)) :
    Script (Except HostError β) :=
  c.andThen fun
    | .error e => .done (.error e)
    | .ok a => f a

/-- A command line: a write of the command word to CMD (R97). -/
def Script.cmd {α : Type} (i : Instr) (k : Script α) : Script α := .wr .cmd (encode i) k

/-- The register number of a register as the port takes it (R61). -/
def regNum (r : Reg) : RegNum := BitVec.ofNat 12 r.number

/-- A sequence performed on the machine, transaction by transaction (R76); stuck where one of its commands is. -/
def Script.run {α : Type} : Script α → State → Host.Outcome (State × α) Fault Refusal
  | .done a, s => .next (s, a)
  | .rd r k, s => (k (portRead (regNum r) s)).run (addAnswer (portRead (regNum r) s) s)
  | .wr r v k, s =>
    match portWrite (regNum r) v s with
    | .next s' => k.run s'
    | .fault f => .fault f
    | .refused e => .refused e

/-- The port transactions a sequence issues on the machine, in order, up to a command that is stuck (R7). -/
def Script.events {α : Type} : Script α → State → List Event
  | .done _, _ => []
  | .rd r k, s =>
    .read (regNum r) :: (k (portRead (regNum r) s)).events (addAnswer (portRead (regNum r) s) s)
  | .wr r v k, s =>
    .write (regNum r) v ::
      match portWrite (regNum r) v s with
      | .next s' => k.events s'
      | .fault _ => []
      | .refused _ => []

/-- The characters of a text in the form of WORDIN: character c in bits [8c+7 : 8c], absent characters 0 (R28, R200). -/
def charsOfText (c : List Byte) : Chars :=
  (c.getD 7 0 ++ c.getD 6 0 ++ c.getD 5 0 ++ c.getD 4 0 ++ c.getD 3 0 ++ c.getD 2 0 ++ c.getD 1 0 ++ c.getD 0 0 : BitVec 64)

/-- The text of a word in the form of WORDOUT: its characters up to the first 0x00 (R28, R40). -/
def textOfChars (x : Chars) : List Byte := ((List.range 8).map (charAt x)).takeWhile (fun b => b != 0)

/-- A read of ERRCODE at which the host goes on if it is 0 and gives up with the code if not. -/
def checkErrcode : Script (Except HostError Unit) :=
  .rd .errcode fun v => .done (if v = 0 then .ok () else .error (.code (v.setWidth 8)))

/-- `LDWORD "text"` (R200). A text that is empty or longer than 8 bytes is in no legal ROM image: the host reports
UnknownWordError itself and issues nothing. -/
def ldword (text : List Byte) : Script (Except HostError Unit) :=
  if text.length = 0 ∨ text.length > 8 then .done (.error (.code Err.unknownWord.code))
  else
    .wr .wordinLo (charsLo (charsOfText text)) <|
    .wr .wordinHi (charsHi (charsOfText text)) <|
    .cmd .lookup checkErrcode

/-- `LDWORD` of each text in turn, stopping at the first error (R201, R203). -/
def ldwords : List (List Byte) → Script (Except HostError Unit)
  | [] => .done (.ok ())
  | x :: rest => (ldword x).orStop fun _ => ldwords rest

/-- The four bytes of a 32-bit register value, low byte first (R69). -/
def bytesOfReg (v : Reg32) : List Byte := [byteOf32 v 0, byteOf32 v 1, byteOf32 v 2, byteOf32 v 3]

/-- `RD` of the four registers of a 16-byte buffer: its 16 bytes (R69). -/
def rdChunk {α : Type} (x : Fin 4 → Reg) (k : List Byte → Script α) : Script α :=
  .rd (x 0) fun v0 => .rd (x 1) fun v1 => .rd (x 2) fun v2 => .rd (x 3) fun v3 =>
    k (bytesOfReg v0 ++ bytesOfReg v1 ++ bytesOfReg v2 ++ bytesOfReg v3)

/-- The value the host writes to register q of a buffer for the bytes `b` (R69, R205). -/
def regOfBytes (b : List Byte) (q : Nat) : Reg32 :=
  (b.getD (4 * q + 3) 0 ++ b.getD (4 * q + 2) 0 ++ b.getD (4 * q + 1) 0 ++ b.getD (4 * q) 0 : BitVec 32)

/-- `WR` of the four registers of CB and of BLEN = 16 (R205, R206). -/
def wrCodecChunk {α : Type} (b : List Byte) (k : Script α) : Script α :=
  .wr (.cb 0) (regOfBytes b 0) <| .wr (.cb 1) (regOfBytes b 1) <|
  .wr (.cb 2) (regOfBytes b 2) <| .wr (.cb 3) (regOfBytes b 3) <|
  .wr .blen 16 k

/-- `DECODE w0 … w(n-1)`, n ≤ 12 (R201): the bytes of at most one chunk's worth of words. -/
def decodeWords (ws : List (List Byte)) : Script (Except HostError (List Byte)) :=
  .cmd .wclr <| (ldwords ws).orStop fun _ =>
    .cmd .unpack <| .rd .blen fun n => rdChunk .cb fun b => .done (.ok (b.take n.toNat))

/-- `FETCH j; RD WORDOUT_LO; RD WORDOUT_HI` for `n` positions from `j` up: the texts of the words (R202, R204). -/
def fetchTexts : Nat → Nat → Script (List (List Byte))
  | 0, _ => .done []
  | n + 1, j =>
    .cmd (.fetch (BitVec.ofNat 8 j)) <|
    .rd .wordoutLo fun lo => .rd .wordoutHi fun hi =>
      (fetchTexts n (j + 1)).andThen fun rest => .done (textOfChars (charsOfHalves hi lo) :: rest)

/-- `ENCODE` (R202): the words of the bytes in CB[0..BLEN-1]. -/
def encodeWords : Script (List (List Byte)) :=
  .cmd .pack <| .rd .wcnt fun w => fetchTexts w.toNat 0

/-- `SHARE_IN k` (R203): one ShareMnemonic into slot k; the result is the share index the host read, 0 for "not a share". -/
def shareIn (k : Byte) (ws : List (List Byte)) : Script (Except HostError (BitVec 8)) :=
  .cmd .wclr <| (ldwords ws).orStop fun _ =>
    .cmd .extract <| .rd .idxr fun i =>
    .cmd .unpack <| .cmd (.ldsh k (i.setWidth 8)) <| .done (.ok (i.setWidth 8))

/-- `SHARE_OUT k` (R204): the 12 words of the ShareMnemonic of slot k. -/
def shareOut (k : Byte) : Script (List (List Byte)) :=
  .rd (.shidx k.toNat) fun v =>
  .cmd (.stsh k) <| .cmd .pack <| .cmd (.embed (v.setWidth 8)) <| fetchTexts 12 0

/-- A list cut into pieces of `n` from the front, a short last piece left out. -/
def cutEvery {α : Type} (n : Nat) (xs : List α) : List (List α) :=
  (List.range (xs.length / n)).map fun c => (xs.drop (n * c)).take n

/-- A list of sequences run one after the other, stopping at the first error; the results in order. -/
def inOrder {α β : Type} (f : α → Script (Except HostError β)) : List α → Script (Except HostError (List β))
  | [] => .done (.ok [])
  | x :: rest => (f x).orStop fun y => (inOrder f rest).orStop fun ys => .done (.ok (y :: ys))

/-- `STSH k; RD CB[0..3]`: the payload of the share in slot k (R205). -/
def sharePayload (k : Byte) : Script (List Byte) := .cmd (.stsh k) <| rdChunk .cb .done

/-- The shares in `n` slots from `k` up, each read out by `out` (R205). -/
def readShares {α : Type} (out : Byte → Script α) : Nat → Nat → Script (List α)
  | 0, _ => .done []
  | n + 1, k => (out (BitVec.ofNat 8 k)).andThen fun x => (readShares out n (k + 1)).andThen fun rest => .done (x :: rest)

/-- One chunk of `SPLITSECRET t, n` (R205): its n shares, as `out` reads them. A host that finds ERRCODE not 0 stops there and
issues no ZEROIZE (DESIGN CHOICE, log entry 14). -/
def splitChunk {α : Type} (out : Byte → Script α) (t n : Byte) (b : List Byte) : Script (Except HostError (List α)) :=
  wrCodecChunk b <| .cmd .ldsec <| .cmd (.split t n) <|
    checkErrcode.orStop fun _ => (readShares out n.toNat 0).andThen fun xs => .done (.ok xs)

/-- `SPLITSECRET t, n` (R205) over a secret: for each share index k+1 what `out` reads of its chunks, in chunk order. A length
that is no multiple of 16 fails with InvalidLengthError and issues nothing; the ZEROIZE is at the end of a run without an error
only (DESIGN CHOICE, log entry 14). -/
def splitSecretBy {α : Type} (out : Byte → Script (List α)) (t n : Byte) (secret : List Byte) :
    Script (Except HostError (List (List (List α)))) :=
  if secret.length % 16 ≠ 0 then .done (.error (.code Err.invalidLength.code))
  else
    (inOrder (splitChunk out t n) (cutEvery 16 secret)).orStop fun chunks =>
      .cmd .zeroize <|
      .done (.ok ((List.range n.toNat).map fun k => chunks.map fun shares => shares.getD k []))

/-- `SPLITSECRET t, n` (R205) with the shares read out as payloads. -/
def splitSecret (t n : Byte) (secret : List Byte) : Script (Except HostError (List (List (List Byte)))) :=
  splitSecretBy sharePayload t n secret

/-- `SPLITSECRET t, n` (R205) with the shares read out as words, "or SHARE_OUT k for the words" in the rule's listing. It is for
n at most 15, as SHARE_OUT is (R204). -/
def splitSecretWords (t n : Byte) (secret : List Byte) : Script (Except HostError (List (List (List (List Byte))))) :=
  splitSecretBy shareOut t n secret

/-- The loads of one chunk of `COMBINESECRET` (R206): each group's payload into the slot of its number. -/
def loadGroups {α : Type} : List (Byte × List Byte) → Nat → Script α → Script α
  | [], _, k => k
  | (x, b) :: rest, g, k => wrCodecChunk b <| .cmd (.ldsh (BitVec.ofNat 8 g) x) <| loadGroups rest (g + 1) k

/-- `WR SHIDX[k], 0` for `n` slots from `k` up: no stale valid slot (R206). -/
def clearSlots {α : Type} : Nat → Nat → Script α → Script α
  | 0, _, k => k
  | n + 1, i, k => .wr (.shidx i) 0 (clearSlots n (i + 1) k)

/-- One chunk of `COMBINESECRET t` (R206): 16 bytes of the secret. A host that finds ERRCODE not 0 stops there and issues no
ZEROIZE (DESIGN CHOICE, log entry 14). -/
def combineGroups (nslot : Nat) (t : Byte) (groups : List (Byte × List Byte)) : Script (Except HostError (List Byte)) :=
  loadGroups groups 0 <| clearSlots (nslot - groups.length) groups.length <|
    .cmd (.combine t) <| checkErrcode.orStop fun _ => rdChunk .sec fun b => .done (.ok b)

/-- `COMBINESECRET t` (R206) over groups, each an index and the payloads of its chunks. Groups of different chunk counts fail
with ChunkCountMismatchError, and more groups than slots fail too; neither issues anything. The ZEROIZE is at the end of a run
without an error only (DESIGN CHOICE, log entry 14). No groups at all are taken as C = 0 chunks, which the listing leaves open: the
result is the empty secret, and only the ZEROIZE is issued (DESIGN CHOICE, log entry 15). -/
def combineSecret (nslot : Nat) (t : Byte) (groups : List (Byte × List (List Byte))) :
    Script (Except HostError (List Byte)) :=
  let chunks := (groups.map fun g => g.2.length).headD 0
  if groups.any (fun g => g.2.length != chunks) then .done (.error (.code Err.chunkCountMismatch.code))
  else if groups.length > nslot then .done (.error .tooManyGroups)
  else
    (inOrder (fun c => combineGroups nslot t (groups.map fun g => (g.1, g.2.getD c []))) (List.range chunks)).orStop
      fun parts => .cmd .zeroize <| .done (.ok parts.flatten)

/-- Cutting a mnemonic into chunks of 12 words (R207): a word count that is no multiple of 12 is a MalformedWordError. Of the
places where R207 lets it be detected the model takes the host, before anything is issued (DESIGN CHOICE, log entry 16). -/
def cutMnemonic {α : Type} (ws : List α) : Except HostError (List (List α)) :=
  if ws.length % 12 ≠ 0 then .error (.code Err.malformedWord.code) else .ok (cutEvery 12 ws)

/-- A sequence performed on each group of 12 words of a mnemonic, on its own and in order; the results in order (R207). -/
def eachGroup {α β : Type} (f : List α → Script (Except HostError β)) (ws : List α) : Script (Except HostError (List β)) :=
  match cutMnemonic ws with
  | .error e => .done (.error e)
  | .ok groups => inOrder f groups

/-- A plaintext mnemonic of whole chunks, decoded group by group (R201, R207): the field bits are dropped in each group. -/
def decodeMnemonic (ws : List (List Byte)) : Script (Except HostError (List Byte)) :=
  (eachGroup decodeWords ws).orStop fun parts => .done (.ok parts.flatten)

/-- One group of a share: `SHARE_IN k` (R203), then `RD CB[0..3]`, where UNPACK has left the payload; the index extracted from this
group and its payload. The reads of CB are the model's addition to the listing (DESIGN CHOICE, log entry 17). -/
def shareGroupIn (k : Byte) (ws : List (List Byte)) : Script (Except HostError (Byte × List Byte)) :=
  (shareIn k ws).orStop fun i => rdChunk .cb fun b => .done (.ok (i, b))

/-- A share of whole chunks given as words, taken in through slot k group by group (R203, R207): the field is extracted in each
group. The indices are handed back as they are, not compared with each other (DESIGN CHOICE, log entry 17). -/
def shareMnemonicIn (k : Byte) (ws : List (List Byte)) : Script (Except HostError (List (Byte × List Byte))) :=
  eachGroup (shareGroupIn k) ws

end Sys2Proof.Machine
end

