-- ==== Sys2Proof/Safety.lean ====
section
/-!
DEFINITION. The terms in which claims about the SSCE are stated: the legal configuration and the invariants (spec/00_scope.md
rule R5, spec/10_state.md rule R33), the table of what each command reads and writes (R32), the errors each command can
raise (spec/60_exceptions.md rule R223), and the reading of a byte as a polynomial (spec/42_field.md rules R140 and R141).
-/

namespace Sys2Proof.Machine

/-- The configuration is legal (R5): POLY, NSLOT and the ROM image. Claims take the parts they need as premises (R251, 93 U26). -/
def State.LegalConfig (s : State) : Prop := LegalPoly s.poly ∧ LegalNslot s.nslot ∧ LegalRom s.rom

/-- The invariants of rule R33 that the widths of the fields do not give already: BLEN ≤ 16, WCNT ≤ 12, ERRCODE is one of the
values that occur, and ERRINFO = 0 whenever ERRCODE = 0. -/
def State.Inv (s : State) : Prop :=
  s.blen.toNat ≤ 16 ∧ s.wcnt.toNat ≤ 12 ∧ s.errcode ∈ occurringCodes ∧ (s.errcode = 0 → s.errinfo = 0)

/-- The random source can answer `n` draws (R70, R251 (b)): it answers every draw, or that many bytes are laid out. -/
def State.CanDraw (s : State) (n : Nat) : Prop := s.rngAnswers = true ∨ n ≤ s.rngQueue.length

/-- The columns of the table of rule R32: the elements of rule R20, the configuration, the ROM and the random source. -/
inductive Elem where
  | sec (p : Fin 16)
  | slot (k : Nat)
  | cb (p : Fin 16)
  | blen
  | w (j : Fin 12)
  | wcnt
  | idxr
  | wordin
  | wordout
  | gfa
  | gfb
  | gfr
  | errcode
  | errinfo
  | nslot
  | poly
  | rom
  | rng
deriving DecidableEq, Repr

/-- Two states agree on an element. -/
def Elem.Same (e : Elem) (s t : State) : Prop :=
  match e with
  | .sec p => s.sec[p] = t.sec[p]
  | .slot k => s.slot k = t.slot k
  | .cb p => s.cb[p] = t.cb[p]
  | .blen => s.blen = t.blen
  | .w j => s.w[j] = t.w[j]
  | .wcnt => s.wcnt = t.wcnt
  | .idxr => s.idxr = t.idxr
  | .wordin => s.wordin = t.wordin
  | .wordout => s.wordout = t.wordout
  | .gfa => s.gfa = t.gfa
  | .gfb => s.gfb = t.gfb
  | .gfr => s.gfr = t.gfr
  | .errcode => s.errcode = t.errcode
  | .errinfo => s.errinfo = t.errinfo
  | .nslot => s.nslot = t.nslot
  | .poly => s.poly = t.poly
  | .rom => s.rom = t.rom
  | .rng => s.rngQueue = t.rngQueue ∧ s.rngDrawn = t.rngDrawn ∧ s.rngAnswers = t.rngAnswers

/-- The column "reads" of the table of rule R32. Every command also reads ERRCODE, which is not listed here. -/
def Reads (i : Instr) (s : State) (e : Elem) : Prop :=
  match i with
  | .nop | .errclr | .zeroize | .wclr => False
  | .lookup => e = .wordin ∨ e = .wcnt ∨ e = .rom
  | .fetch j => (∃ m : Fin 12, m.val = operand j ∧ e = .w m) ∨ e = .wcnt ∨ e = .rom
  | .pack => (∃ p : Fin 16, p.val < s.blen.toNat ∧ e = .cb p) ∨ e = .blen
  | .unpack => (∃ j : Fin 12, j.val < s.wcnt.toNat ∧ e = .w j) ∨ e = .wcnt
  | .embed _ | .extract => e = .w 11 ∨ e = .wcnt
  | .fadd => e = .gfa ∨ e = .gfb
  | .fmul => e = .gfa ∨ e = .gfb ∨ e = .poly
  | .finv => e = .gfa ∨ e = .poly
  | .split _ _ => (∃ p, e = .sec p) ∨ e = .rng ∨ e = .nslot ∨ e = .poly
  | .combine _ => (∃ k, e = .slot k) ∨ e = .nslot ∨ e = .poly
  | .ldsec => (∃ p, e = .cb p) ∨ e = .blen
  | .stsec => ∃ p, e = .sec p
  | .ldsh _ _ => (∃ p, e = .cb p) ∨ e = .blen ∨ e = .nslot
  | .stsh k => e = .slot (operand k) ∨ e = .nslot

/-- The column "writes on success" of the table of rule R32; a SPLIT also consumes draws. -/
def Writes (i : Instr) (s : State) (e : Elem) : Prop :=
  match i with
  | .nop => False
  | .errclr => e = .errcode ∨ e = .errinfo
  | .zeroize =>
    (∃ p, e = .sec p) ∨ (∃ k, e = .slot k) ∨ (∃ p, e = .cb p) ∨ e = .blen ∨ (∃ j, e = .w j) ∨ e = .wcnt ∨
      e = .idxr ∨ e = .wordin ∨ e = .wordout ∨ e = .gfa ∨ e = .gfb ∨ e = .gfr
  | .wclr | .pack => (∃ j, e = .w j) ∨ e = .wcnt
  | .lookup => (∃ j : Fin 12, j.val = s.wcnt.toNat ∧ e = .w j) ∨ e = .wcnt
  | .fetch _ => e = .wordout
  | .unpack => (∃ p, e = .cb p) ∨ e = .blen
  | .embed _ => e = .w 11
  | .extract => e = .idxr ∨ e = .w 11
  | .fadd | .fmul | .finv => e = .gfr
  | .split _ _ => (∃ k, e = .slot k) ∨ e = .rng
  | .combine _ | .ldsec => ∃ p, e = .sec p
  | .stsec | .stsh _ => (∃ p, e = .cb p) ∨ e = .blen
  | .ldsh k _ => e = .slot (operand k)

/-- The errors each command can raise, complete (R223, and IllegalCommandError for no decoded command). -/
def errorsOf : Instr → List Err
  | .lookup => [.malformedWord, .unknownWord]
  | .fetch _ => [.badParameter]
  | .embed _ => [.badParameter, .malformedWord]
  | .extract => [.malformedWord]
  | .finv => [.badParameter]
  | .split _ _ => [.badParameter]
  | .combine _ => [.badParameter, .duplicateIndex, .insufficientShares]
  | .ldsec => [.invalidLength]
  | .ldsh _ _ => [.badParameter, .invalidLength]
  | .stsh _ => [.badParameter]
  | .nop | .errclr | .zeroize | .wclr | .pack | .unpack | .fadd | .fmul | .stsec => []

/-- The polynomial over GF(2) that a bit vector stands for: bit i is the coefficient of x^i (R140, R141). -/
def StandsFor {n : Nat} (a : BitVec n) (f : Polynomial (ZMod 2)) : Prop :=
  ∀ i, f.coeff i = if a.getLsbD i then 1 else 0

end Sys2Proof.Machine
end

