-- ==== Sys2Proof/Certificates/Slice0/Obligations.lean ====
section
/-!
DEFINITION. The statements about the SSCE for the provers. Each docstring says which rules of spec/ it formalises. Where a
statement says "an error is raised", it gives the state error entry leaves in full, so that the frame is part of it.
-/

open Sys2Proof Sys2Proof.Machine

/-! ## Encoding (30_encoding.md) -/

/-- Every command, at every value of its operands, is what its own command word decodes to (R90, R91, R92). -/
def Obligations.DecodeInvertsEncode : Prop :=
  ∀ i : Instr, decode (encode i) = .ok i

/-- No legal command word has a second spelling, and no bit of one is dropped (R90, R92, R96). -/
def Obligations.EncodeInvertsDecode : Prop :=
  ∀ (cw : Reg32) (i : Instr), decode cw = .ok i → encode i = cw

/-- A word selects a row of the table of rule R92 exactly when it decodes to that row's command, and no word selects two
different rows. -/
def Obligations.OpcodeRowsSelectTheirCommands : Prop :=
  (∀ (cw : Reg32), ∀ row ∈ opcodeTable, row.selects cw = true ↔ ∃ i, decode cw = .ok i ∧ i.op = row.op) ∧
  (∀ (cw : Reg32), ∀ a ∈ opcodeTable, ∀ b ∈ opcodeTable, a.selects cw = true → b.selects cw = true → a = b)

/-- R94: a word is illegal exactly when it matches no row, which is when one of (a) to (d) holds; with the latch clear it
then raises IllegalCommandError without any other effect, and with the latch set the check is not made. -/
def Obligations.IllegalWordRaisesIllegalCommand : Prop :=
  ∀ cw : Reg32,
    ((∀ row ∈ opcodeTable, row.selects cw = false) ↔
      (fieldZ cw ≠ 0 ∨ (∀ o : Op, fieldOP cw ≠ o.code) ∨
        (∃ o : Op, fieldOP cw = o.code ∧ o.arity ≤ 1 ∧ fieldB cw ≠ 0) ∨
        (∃ o : Op, fieldOP cw = o.code ∧ o.arity = 0 ∧ fieldA cw ≠ 0))) ∧
    ((∀ row ∈ opcodeTable, row.selects cw = false) → ∀ s : State,
      (s.errcode = 0 → runCommand cw s = .next { s with errcode := 0x10, errinfo := cw }) ∧
      (s.errcode ≠ 0 → runCommand cw s = .next s))

/-- Command words the spec writes out decode to the commands they stand for (R92 and the examples of R115, R131, R163, R165,
R183 and R184). -/
def Obligations.SpecWordsDecodeAsWritten : Prop :=
  decode 0x00000000#32 = .ok .nop ∧ decode 0x00000001#32 = .ok .errclr ∧ decode 0x00000002#32 = .ok .zeroize ∧
  decode 0x00000B12#32 = .ok (.fetch 11) ∧ decode 0x00000013#32 = .ok .pack ∧ decode 0x00000518#32 = .ok (.embed 5) ∧
  decode 0x00000021#32 = .ok .fmul ∧ decode 0x00050328#32 = .ok (.split 3 5) ∧
  decode 0x00000329#32 = .ok (.combine 3) ∧ decode 0x00050232#32 = .ok (.ldsh 2 5) ∧
  decode 0x00000133#32 = .ok (.stsh 1) ∧ decode 0x01000000#32 = .error .reservedNonzero ∧
  decode 0x00000003#32 = .error .unknownOpcode ∧ decode 0x00010012#32 = .error .unusedB ∧
  decode 0x00000100#32 = .error .unusedA

/-! ## The step of the machine (30_encoding.md, 20_memory.md) -/

/-- When the transaction first at the port is a CMD write of a word that decodes to a command, the step is that command's
`exec` with the transaction taken from the port; only a command that can never complete is abandoned, if a reset comes
next (R64, R95, R250; the last is the model's reading, log entry 5). -/
def Obligations.StepRunsTheDecodedCommand : Prop :=
  ∀ (s : State) (cw : Reg32) (rest : List Event) (i : Instr),
    s.port = .write 0x000 cw :: rest → decode cw = .ok i →
      (∀ t, exec i { s with port := rest } = .next t → step s = .next t) ∧
      ((∀ later, rest ≠ .reset :: later) → step s = exec i { s with port := rest }) ∧
      (∀ later, rest = .reset :: later → exec i { s with port := rest } = .fault .rngSilent →
        step s = .next (resetEvent { s with port := later }))

/-- What a step does with every other event: a read appends the register's value to the answers and changes nothing else, a
write of another register changes the state as the port does, a reset resets, and with nothing pending nothing happens
(R6, R62, R63, R250; the last is the model's choice of log entry 4). -/
def Obligations.StepServesEveryOtherEvent : Prop :=
  ∀ (s : State) (rest : List Event),
    (∀ r, s.port = .read r :: rest →
      step s = .next { s with port := rest, answers := s.answers ++ [portRead r s] }) ∧
    (∀ r v, r ≠ 0x000 → s.port = .write r v :: rest → step s = .next { writeRegAt r v s with port := rest }) ∧
    (s.port = .reset :: rest → step s = .next (resetEvent { s with port := rest })) ∧
    (s.port = [] → step s = .next s)

/-- R95: the engine's step on a command word, branch by branch of its pseudocode, and that a command either succeeds or raises
and then writes exactly ERRCODE and ERRINFO. -/
def Obligations.EngineStepFollowsItsPseudocode : Prop :=
  ∀ (cw : Reg32) (s : State),
    (s.errcode ≠ 0 →
      runCommand cw s =
        if cw = 0x00000001 then .next { s with errcode := 0, errinfo := 0 }
        else if cw = 0x00000002 then exec .zeroize s
        else .next s) ∧
    (s.errcode = 0 → (∀ row ∈ opcodeTable, row.selects cw = false) →
      runCommand cw s = .next { s with errcode := Err.illegalCommand.code, errinfo := cw }) ∧
    (s.errcode = 0 → ∀ i, decode cw = .ok i → runCommand cw s = exec i s) ∧
    (s.errcode = 0 → ∀ t, runCommand cw s = .next t →
      t.errcode = 0 ∨ t = { s with errcode := t.errcode, errinfo := cw })

/-- R226: while the latch is set every command word but the two is dropped with no state change, and the port works as usual:
a write of any register but CMD does what it does with the latch clear, and a read of any register but ERRCODE and ERRINFO
returns what it returns with the latch clear. -/
def Obligations.LatchedEngineDropsCommands : Prop :=
  (∀ (s : State) (cw : Reg32), s.errcode ≠ 0 → cw ≠ 0x00000001 → cw ≠ 0x00000002 → runCommand cw s = .next s) ∧
  (∀ (s : State) (r : RegNum) (v : Reg32), r ≠ 0x000 →
    portWrite r v s =
      .next { writeRegAt r v { s with errcode := 0, errinfo := 0 } with errcode := s.errcode, errinfo := s.errinfo }) ∧
  (∀ (s : State) (r : RegNum), r ≠ 0x001 → r ≠ 0x002 →
    portRead r s = portRead r { s with errcode := 0, errinfo := 0 })

/-- R224: a command word that raises leaves ERRCODE = the error's code, ERRINFO = the command word, and everything else,
the random source included, exactly as before. -/
def Obligations.ErrorEntryIsPrecise : Prop :=
  ∀ (cw : Reg32) (s t : State), s.errcode = 0 → runCommand cw s = .next t → t.errcode ≠ 0 →
    ∃ e : Err, t = { s with errcode := e.code, errinfo := cw }

/-- The errors of rule R223: a decoded command raises no error but those the table lists for it, and every one of them is one
of the codes rule R31 lists as occurring. -/
def Obligations.CommandsRaiseOnlyTheirErrors : Prop :=
  ∀ (i : Instr) (s t : State), s.errcode = 0 → exec i s = .next t → t.errcode ≠ 0 →
    (∃ e ∈ errorsOf i, t.errcode = e.code) ∧ t.errcode ∈ occurringCodes

/-- R225: there is no nesting. While an error is latched a step keeps ERRCODE and ERRINFO, unless it is an ERRCLR or a reset,
which clear both. -/
def Obligations.FirstErrorIsKept : Prop :=
  ∀ s t : State, s.errcode ≠ 0 → step s = .next t →
    (t.errcode = s.errcode ∧ t.errinfo = s.errinfo) ∨
    (t.errcode = 0 ∧ t.errinfo = 0 ∧
      ∃ rest, s.port = .write 0x000 0x00000001 :: rest ∨ s.port = .reset :: rest)

/-! ## State, configuration, reset (10_state.md, 70_reset_and_hazards.md) -/

/-- The invariants of rule R33 hold at reset. -/
def Obligations.InvariantsHoldAtReset : Prop := State.reset.Inv

/-- The invariants of rule R33 are kept by every step: by every command, every host write and the reset. -/
def Obligations.EveryStepKeepsTheInvariants : Prop :=
  ∀ s t : State, s.Inv → step s = .next t → t.Inv

/-- The configuration is constant: no step changes NSLOT, POLY or the ROM (R22, R40, R141). -/
def Obligations.NoStepChangesTheConfiguration : Prop :=
  ∀ s t : State, step s = .next t → t.nslot = s.nslot ∧ t.poly = s.poly ∧ t.rom = s.rom

/-- R44: after reset every element of rule R20 is zero, whatever it was, CFG reads its constant and the ROM holds its image;
the machine's initial state is such a state. -/
def Obligations.ResetClearsEveryElement : Prop :=
  (∀ (s : State) (rest : List Event), s.port = .reset :: rest → ∃ t, step s = .next t ∧
    (∀ p : Fin 16, t.sec[p] = 0 ∧ t.cb[p] = 0) ∧ (∀ j : Fin 12, t.w[j] = 0) ∧
    (∀ x ∈ t.sh, x.valid = false ∧ x.idx = 0 ∧ ∀ p : Fin 16, x.pay[p] = 0) ∧
    t.blen = 0 ∧ t.wcnt = 0 ∧ t.idxr = 0 ∧ t.wordin = 0 ∧ t.wordout = 0 ∧ t.gfa = 0 ∧ t.gfb = 0 ∧ t.gfr = 0 ∧
    t.errcode = 0 ∧ t.errinfo = 0 ∧ portRead 0x003 t = portRead 0x003 s ∧ t.rom = s.rom ∧ t.nslot = s.nslot) ∧
  (resetEvent State.reset = State.reset)

/-- The state after reset equals the state after ZEROIZE followed by ERRCLR, from any state, latched or not (last sentence of
R250). -/
def Obligations.ResetIsZeroizeThenErrclr : Prop :=
  ∀ s : State, ∃ z, exec .zeroize s = .next z ∧ exec .errclr z = .next (resetEvent s)

/-- The frame of every command (R32, column "writes on success", and R224): an element the table does not list for the command
is unchanged, but for ERRCODE and ERRINFO when the command raises, and the host's side of the port is never touched. -/
def Obligations.CommandsWriteOnlyTheirElements : Prop :=
  ∀ (i : Instr) (s t : State), exec i s = .next t →
    (∀ e : Elem, ¬ Writes i s e → e ≠ .errcode → e ≠ .errinfo → e.Same s t) ∧
    (i ≠ .errclr → t.errcode = s.errcode → t.errinfo = s.errinfo) ∧
    t.port = s.port ∧ t.answers = s.answers

/-- The column "reads" of the table of R32, as noninterference: two states with the latch clear that agree on what a command
reads get the same error, and on success the same values in everything the command writes. -/
def Obligations.CommandsReadOnlyTheirElements : Prop :=
  ∀ (i : Instr) (a b a' b' : State), a.errcode = 0 → b.errcode = 0 → (∀ e, Reads i a e → e.Same a b) →
    exec i a = .next a' → exec i b = .next b' →
      a'.errcode = b'.errcode ∧ (a'.errcode = 0 → ∀ e, Writes i a e → e.Same a' b')

/-- Every command terminates, provided, for SPLIT, that the random source answers (R99, R253). -/
def Obligations.EveryCommandCompletes : Prop :=
  ∀ (i : Instr) (s : State), (∀ t n, i = .split t n → s.CanDraw (16 * (t.toNat - 1))) → ∃ t, exec i s = .next t

/-- R70, the engine's side: only a successful SPLIT draws, it draws exactly 16(T-1) bytes, the laid out ones first, and if
the source never answers the SPLIT never completes. The queue of laid out bytes and the counter are the model's form of the source (log
entry 3). -/
def Obligations.OnlySuccessfulSplitDraws : Prop :=
  (∀ (i : Instr) (s t : State), s.errcode = 0 → exec i s = .next t →
    (∃ a n, i = .split a n ∧ t.errcode = 0 ∧ t.rngDrawn = s.rngDrawn + 16 * (a.toNat - 1) ∧
      t.rngQueue = s.rngQueue.drop (16 * (a.toNat - 1)) ∧ t.rngAnswers = s.rngAnswers) ∨
    (((∀ a n, i ≠ .split a n) ∨ t.errcode ≠ 0) ∧
      t.rngDrawn = s.rngDrawn ∧ t.rngQueue = s.rngQueue ∧ t.rngAnswers = s.rngAnswers)) ∧
  (∀ (a n : Byte) (s : State), s.errcode = 0 → 2 ≤ a.toNat → a.toNat ≤ n.toNat → n.toNat ≤ s.nslot →
    ¬ s.CanDraw (16 * (a.toNat - 1)) → exec (.split a n) s = .fault .rngSilent)

/-! ## The host port (20_memory.md) -/

/-- The register map of R61: a register number names a register exactly when it is that register's number and the register
exists for this NSLOT; so no number names two registers, and every other number is unmapped. -/
def Obligations.RegisterMapIsTheTable : Prop :=
  ∀ (nslot n : Nat) (r : Reg), regAtNumber nslot n = some r ↔ r.wellFormed nslot = true ∧ r.number = n

/-- R67, and the reads of R62 and R64 that return 0: an unmapped register number reads 0 and ignores writes without an error, and
CMD reads 0. -/
def Obligations.UnmappedNumbersReadZeroAndIgnoreWrites : Prop :=
  (∀ (s : State) (r : RegNum), (∀ x : Reg, x.wellFormed s.nslot = true → x.number ≠ r.toNat) →
    portRead r s = 0 ∧ ∀ v, portWrite r v s = .next s) ∧
  (∀ s : State, portRead 0x000 s = 0)

/-- What a read of a register returns after a write of `v` to it: the written value in the bits the register's fields have
(R65), WCNT and BLEN only if the whole value is legal (R66), the old value for a read-only register (R63, R76 (a)). -/
def Obligations.ReadAfterWriteReturnsTheFields : Prop :=
  ∀ (s : State) (r : RegNum) (x : Reg) (v : Reg32), s.regAt r = some x → x ≠ .cmd →
    portRead r (writeRegAt r v s) =
      match x with
      | .wordinLo | .wordinHi | .sec _ | .cb _ | .shpay _ _ => v
      | .gfa | .gfb => v &&& 0x000000FF
      | .w _ => v &&& 0x000007FF
      | .shidx _ => v &&& 0x000001FF
      | .wcnt => if v.toNat ≤ 12 then v else portRead r s
      | .blen => if v.toNat ≤ 16 then v else portRead r s
      | .cmd | .errcode | .errinfo | .cfg | .idxr | .wordoutLo | .wordoutHi | .gfr => portRead r s

/-- A host write of a register other than CMD changes what no other register reads, and no register the port does not show: the
configuration, the random source and the port itself (R63, R65). -/
def Obligations.HostWriteChangesOneRegister : Prop :=
  ∀ (s : State) (r r' : RegNum) (v : Reg32), r ≠ 0x000 → r' ≠ r → ∃ t, portWrite r v s = .next t ∧
    portRead r' t = portRead r' s ∧ t.nslot = s.nslot ∧ t.poly = s.poly ∧ t.rom = s.rom ∧
    t.rngQueue = s.rngQueue ∧ t.rngDrawn = s.rngDrawn ∧ t.rngAnswers = s.rngAnswers ∧
    t.port = s.port ∧ t.answers = s.answers

/-- R66: WCNT takes a written value of at most 12 and BLEN one of at most 16, the whole 32-bit value counting; any other write
changes nothing and raises nothing. -/
def Obligations.CountsTakeLegalValuesOnly : Prop :=
  ∀ (s : State) (v : Reg32),
    (∃ t, portWrite 0x005 v s = .next t ∧ t = { s with wcnt := t.wcnt } ∧
      (v.toNat ≤ 12 → t.wcnt.toNat = v.toNat) ∧ (12 < v.toNat → t = s)) ∧
    (∃ t, portWrite 0x006 v s = .next t ∧ t = { s with blen := t.blen } ∧
      (v.toNat ≤ 16 → t.blen.toNat = v.toNat) ∧ (16 < v.toNat → t = s))

/-- The port shows the whole state: two states of legal NSLOT in which every register reads the same agree on every element of
rule R20 and on NSLOT and POLY (R7, R61, R62). -/
def Obligations.PortReadsDetermineTheState : Prop :=
  ∀ s t : State, s.nslot ≤ 255 → t.nslot ≤ 255 → (∀ r, portRead r s = portRead r t) →
    t = { s with rom := t.rom, rngQueue := t.rngQueue, rngDrawn := t.rngDrawn, rngAnswers := t.rngAnswers,
                 port := t.port, answers := t.answers }

/-! ## System commands (45_system.md) -/

/-- R190 and R191: NOP changes nothing, with the latch clear or set; ERRCLR clears ERRCODE and ERRINFO, latched or not, and
changes nothing else. -/
def Obligations.NopAndErrclrTouchOnlyTheLatch : Prop :=
  (∀ s : State, exec .nop s = .next s) ∧
  (∀ s : State, exec .errclr s = .next { s with errcode := 0, errinfo := 0 })

/-- R192: ZEROIZE makes every element of rule R20 but ERRCODE and ERRINFO zero, latched or not, and touches neither the
latch nor CFG nor the ROM. -/
def Obligations.ZeroizeWipesEveryBuffer : Prop :=
  ∀ s : State, ∃ t, exec .zeroize s = .next t ∧
    (∀ p : Fin 16, t.sec[p] = 0 ∧ t.cb[p] = 0) ∧ (∀ j : Fin 12, t.w[j] = 0) ∧
    (∀ x ∈ t.sh, x.valid = false ∧ x.idx = 0 ∧ ∀ p : Fin 16, x.pay[p] = 0) ∧
    t.blen = 0 ∧ t.wcnt = 0 ∧ t.idxr = 0 ∧ t.wordin = 0 ∧ t.wordout = 0 ∧ t.gfa = 0 ∧ t.gfb = 0 ∧ t.gfr = 0 ∧
    t.errcode = s.errcode ∧ t.errinfo = s.errinfo ∧ t.nslot = s.nslot ∧ t.poly = s.poly ∧ t.rom = s.rom ∧
    t.rngQueue = s.rngQueue ∧ t.rngDrawn = s.rngDrawn ∧ t.rngAnswers = s.rngAnswers ∧
    t.port = s.port ∧ t.answers = s.answers

/-! ## The mnemonic codec (40_mnemonic_codec.md) -/

/-- R113: WCLR zeroes every W[j] and WCNT, and nothing else. -/
def Obligations.WclrClearsTheWordBuffer : Prop :=
  ∀ s : State, s.errcode = 0 → ∃ t, exec .wclr s = .next t ∧ (∀ j : Fin 12, t.w[j] = 0) ∧ t.wcnt = 0 ∧
    t = { s with w := t.w, wcnt := t.wcnt }

/-- R114: LOOKUP appends the least index whose entry equals WORDIN on all 64 bits; a thirteenth word is a MalformedWordError
before the dictionary is searched, an absent word an UnknownWordError. -/
def Obligations.LookupAppendsTheLeastMatchingIndex : Prop :=
  ∀ s : State, s.errcode = 0 → s.wcnt.toNat ≤ 12 →
    (s.wcnt = 12 → exec .lookup s = .next { s with errcode := 0x04, errinfo := 0x00000011 }) ∧
    (s.wcnt ≠ 12 → (∀ i : Fin 2048, s.rom[i] ≠ s.wordin) →
      exec .lookup s = .next { s with errcode := 0x01, errinfo := 0x00000011 }) ∧
    (∀ i : Fin 2048, ∀ j : Fin 12, j.val = s.wcnt.toNat → s.rom[i] = s.wordin →
      (∀ i' : Fin 2048, i' < i → s.rom[i'] ≠ s.wordin) →
      exec .lookup s = .next { s with w := s.w.set j (BitVec.ofNat 11 i), wcnt := s.wcnt + 1 })

/-- R115: FETCH j delivers the ROM entry of W[j] to WORDOUT if j < WCNT, and raises BadParameterError otherwise. -/
def Obligations.FetchDeliversTheRomEntry : Prop :=
  ∀ (s : State) (j : Byte), s.errcode = 0 →
    (∀ m : Fin 12, m.val = j.toNat → j.toNat < s.wcnt.toNat →
      exec (.fetch j) s = .next { s with wordout := s.rom[s.w[m].toNat]'(s.w[m].isLt) }) ∧
    (s.wcnt.toNat ≤ j.toNat →
      exec (.fetch j) s = .next { s with errcode := 0x11, errinfo := 0x00000012#32 ||| (j.setWidth 32 <<< 8) })

/-- R116 (with R110 and R111): PACK sets WCNT to ceil(8·BLEN/11) and bit t of W[j], most significant first, to bit 11j+t
of the bitstream of CB[0..BLEN-1], 0 past its end; nothing else changes. -/
def Obligations.PackRegroupsTheByteBits : Prop :=
  ∀ s : State, s.errcode = 0 → s.blen.toNat ≤ 16 → ∃ t, exec .pack s = .next t ∧
    t = { s with w := t.w, wcnt := t.wcnt } ∧ t.wcnt.toNat = (8 * s.blen.toNat + 10) / 11 ∧
    ∀ (j : Fin 12) (b : Fin 11), t.w[j].getMsbD b =
      (decide (11 * j.val + b.val < 8 * s.blen.toNat) &&
        (s.cb.toList.getD ((11 * j.val + b.val) / 8) 0).getMsbD ((11 * j.val + b.val) % 8))

/-- R117 (with R110 and R112): UNPACK sets BLEN to floor(11·WCNT/8) and bit t of CB[p], most significant first, to bit
8p+t of the bitstream of W[0..WCNT-1] for p < BLEN, and the other bytes to 0; nothing else changes. -/
def Obligations.UnpackRegroupsTheWordBits : Prop :=
  ∀ s : State, s.errcode = 0 → s.wcnt.toNat ≤ 12 → ∃ t, exec .unpack s = .next t ∧
    t = { s with cb := t.cb, blen := t.blen } ∧ t.blen.toNat = 11 * s.wcnt.toNat / 8 ∧
    ∀ (p : Fin 16) (b : Fin 8), t.cb[p].getMsbD b =
      (decide (p.val < 11 * s.wcnt.toNat / 8) &&
        (s.w.toList.getD ((8 * p.val + b.val) / 11) 0).getMsbD ((8 * p.val + b.val) % 11))

/-- R118: bytes to words and back is exact when the fill is less than 8 bits and adds one 0x00 byte otherwise, for every
length; in the buffers that is the two lists of lengths the rule gives. -/
def Obligations.UnpackAfterPackRestoresTheBytes : Prop :=
  (∀ b : List Byte, unpack (pack b) =
    if 11 * ((8 * b.length + 10) / 11) - 8 * b.length < 8 then b else b ++ [0]) ∧
  (∀ s : State, s.errcode = 0 → s.blen.toNat ≤ 16 → ∃ u v, exec .pack s = .next u ∧ exec .unpack u = .next v ∧
    (∀ p : Fin 16, p.val < s.blen.toNat → v.cb[p] = s.cb[p]) ∧
    (∀ p : Fin 16, s.blen.toNat ≤ p.val → v.cb[p] = 0) ∧
    (s.blen.toNat ∈ [0, 1, 2, 4, 5, 6, 8, 9, 11, 12, 13, 15, 16] → v.blen = s.blen) ∧
    (s.blen.toNat ∈ [3, 7, 10, 14] → v.blen = s.blen + 1))

/-- R119: words to bytes and back gives the same number of words, equal but for the low d = 11w mod 8 bits of the last one,
which come back as 0, for every number of words; in the buffers for twelve words these are W[11][3:0]. -/
def Obligations.PackAfterUnpackRestoresTheWords : Prop :=
  (∀ x : List WordIdx, (pack (unpack x)).length = x.length ∧
    (∀ j, j + 1 < x.length → (pack (unpack x)).getD j 0 = x.getD j 0) ∧
    (∀ j, j + 1 = x.length → ∀ b < 11,
      ((pack (unpack x)).getD j 0).getLsbD b = (decide (11 * x.length % 8 ≤ b) && (x.getD j 0).getLsbD b))) ∧
  (∀ s : State, s.errcode = 0 → s.wcnt = 12 → ∃ u v, exec .unpack s = .next u ∧ exec .pack u = .next v ∧
    v.wcnt = 12 ∧ (∀ j : Fin 12, j ≠ 11 → v.w[j] = s.w[j]) ∧ v.w[11] = s.w[11] &&& 0x7F0)

/-! ## The share-index field (41_sharecoder.md) -/

/-- R131: EMBED i overwrites the index field of W[11] with i; an index outside 1 to 15 is a BadParameterError, then a word count
other than 12 a MalformedWordError. -/
def Obligations.EmbedOverwritesTheIndexField : Prop :=
  ∀ (s : State) (i : Byte), s.errcode = 0 →
    (1 ≤ i.toNat → i.toNat ≤ 15 → s.wcnt = 12 →
      exec (.embed i) s = .next { s with w := s.w.set 11 ((s.w[11] &&& 0x7F0#11) ||| i.setWidth 11) }) ∧
    (i.toNat = 0 ∨ 15 < i.toNat →
      exec (.embed i) s = .next { s with errcode := 0x11, errinfo := 0x00000018#32 ||| (i.setWidth 32 <<< 8) }) ∧
    (1 ≤ i.toNat → i.toNat ≤ 15 → s.wcnt ≠ 12 →
      exec (.embed i) s = .next { s with errcode := 0x04, errinfo := 0x00000018#32 ||| (i.setWidth 32 <<< 8) })

/-- R132: EXTRACT puts W[11][3:0] into IDXR and clears it in the buffer, whatever its value; it needs twelve words. -/
def Obligations.ExtractReadsAndClearsTheIndexField : Prop :=
  ∀ s : State, s.errcode = 0 →
    (s.wcnt = 12 →
      exec .extract s = .next { s with idxr := s.w[11].setWidth 4, w := s.w.set 11 (s.w[11] &&& 0x7F0#11) }) ∧
    (s.wcnt ≠ 12 → exec .extract s = .next { s with errcode := 0x04, errinfo := 0x00000019 })

/-- R133: EMBED i then EXTRACT leaves IDXR = i and W as before the EMBED except that W[11][3:0] = 0, and the word buffers
after the two commands differ only in W[11][3:0]. -/
def Obligations.ExtractAfterEmbedReturnsTheIndex : Prop :=
  ∀ (s : State) (i : Byte), s.errcode = 0 → s.wcnt = 12 → 1 ≤ i.toNat → i.toNat ≤ 15 →
    ∃ u v, exec (.embed i) s = .next u ∧ exec .extract u = .next v ∧ v.idxr.toNat = i.toNat ∧
      v = { s with idxr := v.idxr, w := v.w } ∧
      (∀ j : Fin 12, j ≠ 11 → v.w[j] = s.w[j] ∧ v.w[j] = u.w[j]) ∧
      (∀ b, 4 ≤ b → v.w[11].getLsbD b = s.w[11].getLsbD b ∧ v.w[11].getLsbD b = u.w[11].getLsbD b) ∧
      (∀ b, b < 4 → v.w[11].getLsbD b = false)

/-- R134: with twelve words, UNPACK gives the same CB and BLEN before EMBED, after EMBED i, and after EXTRACT. -/
def Obligations.PayloadDoesNotDependOnTheIndexField : Prop :=
  ∀ (s u e x : State) (i : Byte), s.errcode = 0 → s.wcnt = 12 → exec .unpack s = .next u →
    1 ≤ i.toNat → i.toNat ≤ 15 → exec (.embed i) s = .next e → exec .extract s = .next x →
    ∃ u' u'', exec .unpack e = .next u' ∧ exec .unpack x = .next u'' ∧
      u'.cb = u.cb ∧ u'.blen = u.blen ∧ u''.cb = u.cb ∧ u''.blen = u.blen

/-! ## GF(256) (42_field.md) -/

/-- R150: FADD puts GFA ^ GFB into GFR and changes nothing else. -/
def Obligations.FaddAddsTheOperands : Prop :=
  ∀ s : State, s.errcode = 0 → exec .fadd s = .next { s with gfr := s.gfa ^^^ s.gfb }

/-- R151 and R143: FMUL puts `gfmul` of GFA and GFB into GFR and changes nothing else, and that byte is the product of the two
polynomials reduced modulo POLY (bytes read as R140 says): POLY divides the difference of the product and the result. -/
def Obligations.FmulMultipliesModuloPoly : Prop :=
  ∀ s : State, s.errcode = 0 →
    exec .fmul s = .next { s with gfr := gfmul s.poly s.gfa s.gfb } ∧
    (s.poly.getLsbD 8 = true →
      ∀ fa fb fr fm : Polynomial (ZMod 2), StandsFor s.gfa fa → StandsFor s.gfb fb →
        StandsFor (gfmul s.poly s.gfa s.gfb) fr → StandsFor s.poly fm → fm ∣ fa * fb - fr)

/-- FINV puts into GFR the unique byte whose product with GFA is 1, for every legal POLY, and changes nothing else; for
GFA = 0 it raises BadParameterError and GFR keeps its value (R144, R152). -/
def Obligations.FinvGivesTheUniqueInverse : Prop :=
  ∀ s : State, s.errcode = 0 →
    (s.gfa ≠ 0 → LegalPoly s.poly → ∃ t, exec .finv s = .next t ∧ t = { s with gfr := t.gfr } ∧
      ∀ b, gfmul s.poly s.gfa b = 0x01 ↔ b = t.gfr) ∧
    (s.gfa ≠ 0 → exec .finv s = .next { s with gfr := gfpow s.poly s.gfa 254 }) ∧
    (s.gfa = 0 → exec .finv s = .next { s with errcode := 0x11, errinfo := 0x00000022 })

/-- R141: the legal values of POLY are exactly the 9-bit values with bit 8 set that stand for an irreducible polynomial over
GF(2), and there are exactly 30 of them. -/
def Obligations.LegalPolysAreTheIrreducibleOnes : Prop :=
  (∀ p : BitVec 9, LegalPoly p ↔ p.getLsbD 8 = true ∧ ∃ f, StandsFor p f ∧ Irreducible f) ∧
  Config.legalPolys.Nodup ∧ Config.legalPolys.length = 30

/-- R147: for every legal POLY the bytes with `gfadd` and `gfmul` form a field, law by law as the rule lists them. -/
def Obligations.BytesFormAField : Prop :=
  ∀ poly : BitVec 9, LegalPoly poly → ∀ a b c : Byte,
    gfadd a b = gfadd b a ∧ gfadd (gfadd a b) c = gfadd a (gfadd b c) ∧
    gfmul poly a b = gfmul poly b a ∧ gfmul poly (gfmul poly a b) c = gfmul poly a (gfmul poly b c) ∧
    gfmul poly a (gfadd b c) = gfadd (gfmul poly a b) (gfmul poly a c) ∧
    gfadd a 0 = a ∧ gfadd a a = 0 ∧ gfmul poly a 1 = a ∧ gfmul poly a 0 = 0 ∧
    (gfmul poly a b = 0 → a = 0 ∨ b = 0) ∧
    (a ≠ 0 → gfmul poly a (gfinv poly a) = 1 ∧ gfinv poly (gfinv poly a) = a ∧ gfpow poly a 255 = 1)

/-- R145: the value `polyeval` computes is the exclusive or of the coefficients times the powers of x. -/
def Obligations.PolyevalIsTheSumOfPowers : Prop :=
  ∀ (poly : BitVec 9) (c : List Byte) (x : Byte), poly.getLsbD 8 = true →
    polyeval poly c x =
      ((List.range c.length).map fun j => gfmul poly (c.getD j 0) (gfpow poly x j)).foldl (fun acc y => acc ^^^ y) 0

/-! ## Shamir split and combine (43_shamir.md) -/

/-- R163 (with R161 and R162): a legal SPLIT t, n draws 16(t-1) bytes r, the laid out ones first; slot k < n becomes valid with
index k+1 and, at byte p, the value at k+1 of the polynomial with constant term SEC[p] and coefficients r[(t-1)p ..]; the
other slots are cleared and nothing else changes. Parameters outside 2 ≤ t ≤ n ≤ NSLOT raise BadParameterError. The queue of laid
out bytes and the counter are the model's form of the random source (log entry 3). -/
def Obligations.SplitFillsTheSlots : Prop :=
  ∀ (s : State) (t n : Byte), s.errcode = 0 →
    (2 ≤ t.toNat → t.toNat ≤ n.toNat → n.toNat ≤ s.nslot → s.CanDraw (16 * (t.toNat - 1)) →
      ∃ (r : List Byte) (u : State), r.length = 16 * (t.toNat - 1) ∧
        r.take s.rngQueue.length = s.rngQueue.take r.length ∧
        exec (.split t n) s = .next u ∧
        u = { s with sh := u.sh, rngQueue := s.rngQueue.drop (16 * (t.toNat - 1)),
                     rngDrawn := s.rngDrawn + 16 * (t.toNat - 1) } ∧
        u.nslot = s.nslot ∧
        (∀ k, k < n.toNat → (u.slot k).valid = true ∧ (u.slot k).idx.toNat = k + 1 ∧
          ∀ p : Fin 16, (u.slot k).pay[p] =
            polyeval s.poly (s.sec[p] :: (List.range (t.toNat - 1)).map fun m => r.getD ((t.toNat - 1) * p.val + m) 0)
              (BitVec.ofNat 8 (k + 1))) ∧
        (∀ k, n.toNat ≤ k → (u.slot k).valid = false ∧ (u.slot k).idx = 0 ∧
          ∀ p : Fin 16, (u.slot k).pay[p] = 0)) ∧
    (¬ (2 ≤ t.toNat ∧ t.toNat ≤ n.toNat ∧ n.toNat ≤ s.nslot) →
      exec (.split t n) s =
        .next { s with errcode := 0x11, errinfo := 0x00000028#32 ||| (t.setWidth 32 <<< 8) ||| (n.setWidth 32 <<< 16) })

/-- R165: COMBINE t checks, in this order, t, a valid slot of index 0, two valid slots of one index, fewer than t valid slots;
if none of these holds, SEC becomes, lane by lane, the exclusive or over all K valid slots of the payload byte times the
Lagrange weight of rule R146, and nothing else changes. -/
def Obligations.CombineInterpolatesAllValidSlots : Prop :=
  ∀ (s : State) (t : Byte), s.errcode = 0 → ∀ sel xs, sel = s.sh.filter (fun x => x.valid) → xs = sel.map (fun x => x.idx) →
    (¬ (2 ≤ t.toNat ∧ t.toNat ≤ s.nslot) →
      exec (.combine t) s = .next { s with errcode := 0x11, errinfo := 0x00000029#32 ||| (t.setWidth 32 <<< 8) }) ∧
    (2 ≤ t.toNat → t.toNat ≤ s.nslot →
      (0 ∈ xs →
        exec (.combine t) s = .next { s with errcode := 0x11, errinfo := 0x00000029#32 ||| (t.setWidth 32 <<< 8) }) ∧
      (0 ∉ xs → ¬ xs.Nodup →
        exec (.combine t) s = .next { s with errcode := 0x08, errinfo := 0x00000029#32 ||| (t.setWidth 32 <<< 8) }) ∧
      (0 ∉ xs → xs.Nodup → xs.length < t.toNat →
        exec (.combine t) s = .next { s with errcode := 0x07, errinfo := 0x00000029#32 ||| (t.setWidth 32 <<< 8) }) ∧
      (0 ∉ xs → xs.Nodup → t.toNat ≤ xs.length →
        ∃ u, exec (.combine t) s = .next u ∧ u = { s with sec := u.sec } ∧
          ∀ p : Fin 16, u.sec[p] =
            ((List.range xs.length).map fun j =>
              gfmul s.poly (sel.getD j Slot.empty).pay[p]
                (((List.range xs.length).filter (fun m => m != j)).foldl
                  (fun acc m => gfmul s.poly acc
                    (gfmul s.poly (xs.getD m 0) (gfinv s.poly (xs.getD m 0 ^^^ xs.getD j 0)))) 0x01)).foldl
              (fun acc y => acc ^^^ y) 0))

/-- The slot numbers and their order do not affect COMBINE (corner case of R165): permuting the slot file changes neither the
error nor the recovered chunk. -/
def Obligations.CombineIgnoresTheSlotOrder : Prop :=
  ∀ (s u : State) (sh' : List Slot) (t : Byte), s.poly.getLsbD 8 = true → s.errcode = 0 → sh'.Perm s.sh →
    exec (.combine t) s = .next u → exec (.combine t) { s with sh := sh' } = .next { u with sh := sh' }

/-- R167: after a successful SPLIT t, n of a chunk, with any draws, and with the valid bits of any slots cleared so that at least
t stay valid, COMBINE t succeeds and recovers the chunk, whatever SEC held by then. -/
def Obligations.CombineAfterSplitRecoversTheChunk : Prop :=
  ∀ (s u v : State) (t n : Byte), LegalPoly s.poly → LegalNslot s.nslot → s.errcode = 0 →
    exec (.split t n) s = .next u → u.errcode = 0 →
    v = { u with sh := v.sh, sec := v.sec } → v.nslot = u.nslot →
    (∀ k, v.slot k = u.slot k ∨ v.slot k = { u.slot k with valid := false }) →
    t.toNat ≤ (v.sh.filter (fun x => x.valid)).length →
      exec (.combine t) v = .next { v with sec := s.sec }

/-- R168: exactly t-1 valid slots of pairwise different non-zero indices give InsufficientSharesError; two valid slots of equal
non-zero index, with no valid slot of index 0, give DuplicateIndexError, whatever their payloads and for every legal t. -/
def Obligations.TooFewOrEqualSharesAreRefused : Prop :=
  ∀ (s : State) (t : Byte), s.errcode = 0 → 2 ≤ t.toNat → t.toNat ≤ s.nslot →
    (((s.sh.filter (fun x => x.valid)).map (fun x => x.idx)).Nodup →
      (∀ x ∈ s.sh, x.valid = true → x.idx ≠ 0) → (s.sh.filter (fun x => x.valid)).length = t.toNat - 1 →
      exec (.combine t) s = .next { s with errcode := 0x07, errinfo := encode (.combine t) }) ∧
    (∀ j k, j < k → k < s.nslot → (s.slot j).valid = true → (s.slot k).valid = true → (s.slot j).idx = (s.slot k).idx →
      (∀ x ∈ s.sh, x.valid = true → x.idx ≠ 0) →
      exec (.combine t) s = .next { s with errcode := 0x08, errinfo := encode (.combine t) })

/-- The security invariant of R164, for one lane: for any m ≤ t-1 different non-zero coordinates and any bytes at them, the
number of draw vectors that produce those bytes is 256^(t-1-m), whatever the secret byte is. The draws are counted, not
assumed random (premise U3 of 93 is not needed). -/
def Obligations.FewerThanThresholdSharesRevealNothing : Prop :=
  ∀ (poly : BitVec 9) (t m : Nat) (xs ys : Fin m → Byte) (secret : Byte), LegalPoly poly → 2 ≤ t → m ≤ t - 1 →
    Function.Injective xs → (∀ j, xs j ≠ 0) →
    Nat.card { r : Fin (t - 1) → Byte // ∀ j, polyeval poly (secret :: List.ofFn r) (xs j) = ys j } = 256 ^ (t - 1 - m)

/-- R160: the lanes are independent. What COMBINE puts into SEC[p] depends on the valid bits, the indices and PAY[p] only, and
what SPLIT puts into PAY[p] on SEC[p] and lane p's own draws only. -/
def Obligations.LanesAreIndependent : Prop :=
  (∀ (a b a' b' : State) (t : Byte) (p : Fin 16), a.errcode = 0 → b.errcode = 0 → a.poly = b.poly → a.nslot = b.nslot →
    (∀ k, (a.slot k).valid = (b.slot k).valid ∧ (a.slot k).idx = (b.slot k).idx ∧ (a.slot k).pay[p] = (b.slot k).pay[p]) →
    exec (.combine t) a = .next a' → exec (.combine t) b = .next b' →
      a'.errcode = b'.errcode ∧ (a'.errcode = 0 → a'.sec[p] = b'.sec[p])) ∧
  (∀ (a b a' b' : State) (t n : Byte) (p : Fin 16), a.errcode = 0 → b.errcode = 0 → a.poly = b.poly → a.nslot = b.nslot →
    16 * (t.toNat - 1) ≤ a.rngQueue.length → 16 * (t.toNat - 1) ≤ b.rngQueue.length → a.sec[p] = b.sec[p] →
    (∀ m, m < t.toNat - 1 → a.rngQueue[(t.toNat - 1) * p.val + m]? = b.rngQueue[(t.toNat - 1) * p.val + m]?) →
    exec (.split t n) a = .next a' → exec (.split t n) b = .next b' →
      a'.errcode = b'.errcode ∧ (a'.errcode = 0 → ∀ k, (a'.slot k).pay[p] = (b'.slot k).pay[p]))

/-! ## Chunk transfer (44_transfer.md) -/

/-- R181 and R182: LDSEC copies CB to SEC if BLEN = 16, and raises InvalidLengthError otherwise; STSEC copies SEC to CB and sets
BLEN to 16. -/
def Obligations.LdsecAndStsecMoveTheSecretChunk : Prop :=
  ∀ s : State, s.errcode = 0 →
    (s.blen = 16 → exec .ldsec s = .next { s with sec := s.cb }) ∧
    (s.blen ≠ 16 → exec .ldsec s = .next { s with errcode := 0x05, errinfo := 0x00000030 }) ∧
    exec .stsec s = .next { s with cb := s.sec, blen := 16 }

/-- R183: LDSH k, i makes slot k the valid share (i, CB) and changes no other slot; a slot that does not exist or index 0 is a
BadParameterError, then BLEN ≠ 16 an InvalidLengthError. -/
def Obligations.LdshLoadsOneSlot : Prop :=
  ∀ (s : State) (k i : Byte), s.errcode = 0 →
    (k.toNat < s.nslot → i ≠ 0 → s.blen = 16 → ∃ t, exec (.ldsh k i) s = .next t ∧ t = { s with sh := t.sh } ∧
      t.nslot = s.nslot ∧ t.slot k.toNat = ⟨true, i, s.cb⟩ ∧ ∀ m, m ≠ k.toNat → t.slot m = s.slot m) ∧
    (s.nslot ≤ k.toNat ∨ i = 0 →
      exec (.ldsh k i) s =
        .next { s with errcode := 0x11, errinfo := 0x00000032#32 ||| (k.setWidth 32 <<< 8) ||| (i.setWidth 32 <<< 16) }) ∧
    (k.toNat < s.nslot → i ≠ 0 → s.blen ≠ 16 →
      exec (.ldsh k i) s =
        .next { s with errcode := 0x05, errinfo := 0x00000032#32 ||| (k.setWidth 32 <<< 8) ||| (i.setWidth 32 <<< 16) })

/-- R184: STSH k copies the payload of slot k to CB and sets BLEN to 16; a slot that does not exist or holds no share is a
BadParameterError. -/
def Obligations.StshStoresAValidSlot : Prop :=
  ∀ (s : State) (k : Byte), s.errcode = 0 →
    (k.toNat < s.nslot → (s.slot k.toNat).valid = true →
      exec (.stsh k) s = .next { s with cb := (s.slot k.toNat).pay, blen := 16 }) ∧
    (s.nslot ≤ k.toNat ∨ (s.slot k.toNat).valid = false →
      exec (.stsh k) s = .next { s with errcode := 0x11, errinfo := 0x00000033#32 ||| (k.setWidth 32 <<< 8) })

/-! ## Host sequences (46_host_sequences.md) -/

/-- A host sequence that runs to its end is a run of the machine over the transactions it issues (R7, R76): stepping through
them, with anything pending after them, ends in the same state. The pending events and the scripts are the model's form of R7 and of 46_host_sequences.md (log entries
4 and 10). -/
def Obligations.HostSequencesAreRunsOfTheMachine : Prop :=
  ∀ (α : Type) (c : Script α) (s t : State) (a : α) (rest : List Event), c.run s = .next (t, a) →
    Host.Core.run core (c.events s).length { s with port := c.events s ++ rest } = .next { t with port := rest }

/-- DECODE after ENCODE (R201, R202): with a legal ROM, the words ENCODE gives for a chunk decode to that chunk, on any SSCE with
the same ROM and the latch clear. The sequences are scripts, the model's form of them (DESIGN CHOICE, log entry 10). -/
def Obligations.DecodingTheEncodedWordsRestoresTheChunk : Prop :=
  ∀ s s' : State, LegalRom s.rom → s'.rom = s.rom → s.errcode = 0 → s'.errcode = 0 → s.blen = 16 →
    ∃ t t' texts, encodeWords.run s = .next (t, texts) ∧ texts.length = 12 ∧
      (decodeWords texts).run s' = .next (t', .ok s.cb.toList)

/-- SHARE_IN after SHARE_OUT (R203, R204): with a legal ROM, the ShareMnemonic of a valid slot of index 1 to 15 brings the
same index and payload into any slot of any SSCE with the same ROM and the latch clear. The sequences are scripts, the model's form of
them (DESIGN CHOICE, log entry 10). -/
def Obligations.ShareMnemonicCarriesTheShare : Prop :=
  ∀ (s s' : State) (k k' : Byte), LegalRom s.rom → s'.rom = s.rom → s.errcode = 0 → s'.errcode = 0 →
    s.nslot ≤ 255 → k.toNat < s.nslot → k'.toNat < s'.nslot → s'.nslot ≤ 255 → (s.slot k.toNat).valid = true →
    1 ≤ (s.slot k.toNat).idx.toNat → (s.slot k.toNat).idx.toNat ≤ 15 →
    ∃ t t' texts, (shareOut k).run s = .next (t, texts) ∧ texts.length = 12 ∧
      (shareIn k' texts).run s' = .next (t', .ok (s.slot k.toNat).idx) ∧
      t'.slot k'.toNat = s.slot k.toNat ∧ t'.errcode = 0

/-- The source's round trip, scenario S1 of 95_test_vectors.md, over the sequences of R205 and R206: for every secret of a
multiple of 16 bytes and all valid t ≤ n, COMBINESECRET over the shares of any at least t different groups of SPLITSECRET
gives the secret back. The sequences are scripts, the model's form of them (DESIGN CHOICE, log entry 10). The source is one that
answers every draw (`rngAnswers`, DESIGN CHOICE, log entry 3); a silent source with enough bytes laid out is left out. -/
def Obligations.CombineSecretInvertsSplitSecret : Prop :=
  ∀ (s s' : State) (t n : Byte) (secret : List Byte),
    LegalPoly s.poly → s'.poly = s.poly → LegalNslot s.nslot → LegalNslot s'.nslot →
    s.errcode = 0 → s'.errcode = 0 → s.rngAnswers = true →
    2 ≤ t.toNat → t.toNat ≤ n.toNat → n.toNat ≤ s.nslot → secret.length % 16 = 0 →
    ∃ u shares, (splitSecret t n secret).run s = .next (u, .ok shares) ∧ shares.length = n.toNat ∧
      ∀ ks : List Nat, ks.Nodup → (∀ k ∈ ks, k < n.toNat) → t.toNat ≤ ks.length → ks.length ≤ s'.nslot →
        ∃ v, (combineSecret s'.nslot t (ks.map fun k => (BitVec.ofNat 8 (k + 1), shares.getD k []))).run s' =
          .next (v, .ok secret)
end

