-- ==== Sys2Proof/Laws/Bitstream.lean ====
section
/-!
SUPPORT. The bits of the packer's results (spec/40_mnemonic_codec.md rules R110 to R112): packing keeps the byte bitstream and
fills it with zero bits, unpacking keeps the whole bytes of the index bitstream.
-/

namespace Sys2Proof.Machine

@[simp] theorem pack_length (b : List Byte) : (pack b).length = packedLength b.length := by simp [pack]

@[simp] theorem unpack_length (x : List WordIdx) : (unpack x).length = unpackedLength x.length := by simp [unpack]

/-- A bit of the byte bitstream in the numbering of rule R110. -/
theorem byteStreamBit_eq (b : List Byte) (q : Nat) : byteStreamBit b q = (b.getD (q / 8) 0).getMsbD (q % 8) := by
  rw [byteStreamBit, BitVec.getMsbD_eq_getLsbD, decide_eq_true (Nat.mod_lt q (by decide)), Bool.true_and]

/-- A bit of the index bitstream in the numbering of rule R110. -/
theorem wordStreamBit_eq (x : List WordIdx) (q : Nat) : wordStreamBit x q = (x.getD (q / 11) 0).getMsbD (q % 11) := by
  rw [wordStreamBit, BitVec.getMsbD_eq_getLsbD, decide_eq_true (Nat.mod_lt q (by decide)), Bool.true_and]

/-- The bitstream of the bytes ends after eight bits a byte; what follows is the fill of rule R111. -/
theorem byteStreamBit_past {b : List Byte} {q : Nat} (h : 8 * b.length ≤ q) : byteStreamBit b q = false := by
  rw [byteStreamBit, List.getD_eq_default _ _ (by omega)]
  simp

/-- The bitstream of the indices ends after eleven bits an index. -/
theorem wordStreamBit_past {x : List WordIdx} {q : Nat} (h : 11 * x.length ≤ q) : wordStreamBit x q = false := by
  rw [wordStreamBit, List.getD_eq_default _ _ (by omega)]
  simp

/-- Bit t of index j of a packing, most significant first (R111); 0 for an index past the last one. -/
theorem pack_bit (b : List Byte) (j : Nat) {t : Nat} (ht : t < 11) :
    ((pack b).getD j 0).getMsbD t = byteStreamBit b (11 * j + t) := by
  by_cases hj : j < packedLength b.length
  · rw [List.getD_eq_getElem _ _ (by simpa using hj)]
    simp [pack, BitVec.getMsbD_ofFnBE, ht]
  · rw [List.getD_eq_default _ _ (by simpa using hj), byteStreamBit_past (by unfold packedLength at hj; omega)]
    simp

/-- Bit t of byte p of an unpacking, most significant first (R112); 0 for a byte past the last one. -/
theorem unpack_bit (x : List WordIdx) (p : Nat) {t : Nat} (ht : t < 8) :
    ((unpack x).getD p 0).getMsbD t = (decide (p < unpackedLength x.length) && wordStreamBit x (8 * p + t)) := by
  by_cases hp : p < unpackedLength x.length
  · rw [List.getD_eq_getElem _ _ (by simpa using hp)]
    simp [unpack, BitVec.getMsbD_ofFnBE, ht, hp]
  · rw [List.getD_eq_default _ _ (by simpa using hp)]
    simp [hp]

/-- The index bitstream of a packing is the byte bitstream. -/
theorem wordStreamBit_pack (b : List Byte) (q : Nat) : wordStreamBit (pack b) q = byteStreamBit b q := by
  rw [wordStreamBit_eq, pack_bit b _ (Nat.mod_lt q (by decide)), Nat.div_add_mod]

/-- The byte bitstream of an unpacking is the whole bytes of the index bitstream. -/
theorem byteStreamBit_unpack (x : List WordIdx) (q : Nat) :
    byteStreamBit (unpack x) q = (decide (q / 8 < unpackedLength x.length) && wordStreamBit x q) := by
  rw [byteStreamBit_eq, unpack_bit x _ (Nat.mod_lt q (by decide)), Nat.div_add_mod]

end Sys2Proof.Machine
end

