-- ==== Sys2Proof/Laws/Decode.lean ====
section
/-!
SUPPORT. The small lemmas of the command word: its four fields, and the word its fields make (spec/30_encoding.md rules R90 and R92).
-/

namespace Sys2Proof

/-- Bit i of a command word, field by field. -/
theorem getLsbD_commandWord (op a b : Byte) (i : Nat) :
    (commandWord op a b).getLsbD i =
      if i < 8 then op.getLsbD i else if i < 16 then a.getLsbD (i - 8) else b.getLsbD (i - 16) := by
  simp only [commandWord, BitVec.getLsbD_append, BitVec.getLsbD_zero]
  rcases Nat.lt_or_ge i 8 with h | h
  · simp [h]
  · rcases Nat.lt_or_ge i 16 with h' | h'
    · simp [show ¬ i < 8 by omega, show i - 8 < 8 by omega, h']
    · rcases Nat.lt_or_ge i 24 with h'' | h''
      · simp [show ¬ i < 8 by omega, show ¬ i - 8 < 8 by omega, show ¬ i < 16 by omega, show i - 16 < 8 by omega,
          Nat.sub_sub]
      · simp [show ¬ i < 8 by omega, show ¬ i - 8 < 8 by omega, show ¬ i - 8 - 8 < 8 by omega, show ¬ i < 16 by omega,
          BitVec.getLsbD_of_ge b (i - 16) (by omega)]

@[simp] theorem fieldOP_commandWord (op a b : Byte) : fieldOP (commandWord op a b) = op := by
  ext i hi
  simp only [fieldOP, BitVec.getElem_extractLsb', getLsbD_commandWord]
  simp [hi]

@[simp] theorem fieldA_commandWord (op a b : Byte) : fieldA (commandWord op a b) = a := by
  ext i hi
  simp only [fieldA, BitVec.getElem_extractLsb', getLsbD_commandWord]
  simp [show 8 + i < 16 by omega, hi]

@[simp] theorem fieldB_commandWord (op a b : Byte) : fieldB (commandWord op a b) = b := by
  ext i hi
  simp only [fieldB, BitVec.getElem_extractLsb', getLsbD_commandWord]
  simp [show ¬ 16 + i < 8 by omega, hi]

@[simp] theorem fieldZ_commandWord (op a b : Byte) : fieldZ (commandWord op a b) = 0 := by
  ext i hi
  simp only [fieldZ, BitVec.getElem_extractLsb', getLsbD_commandWord]
  simp [show ¬ 24 + i < 8 by omega, show ¬ 24 + i < 16 by omega, BitVec.getLsbD_of_ge b (24 + i - 16) (by omega)]

/-- A word whose field Z is 0 is the word its other fields make. -/
theorem commandWord_of_fields (cw : Reg32) (hz : fieldZ cw = 0) :
    commandWord (fieldOP cw) (fieldA cw) (fieldB cw) = cw := by
  apply BitVec.eq_of_getLsbD_eq
  intro i hi
  rw [getLsbD_commandWord]
  rcases Nat.lt_or_ge i 8 with h | h
  · simp [h, fieldOP]
  · rcases Nat.lt_or_ge i 16 with h' | h'
    · simp [show ¬ i < 8 by omega, h', fieldA, show i - 8 < 8 by omega, show 8 + (i - 8) = i by omega]
    · rcases Nat.lt_or_ge i 24 with h'' | h''
      · simp [show ¬ i < 8 by omega, show ¬ i < 16 by omega, fieldB, show i - 16 < 8 by omega,
          show 16 + (i - 16) = i by omega]
      · have := congrArg (fun x : Byte => x.getLsbD (i - 24)) hz
        simp only [fieldZ, BitVec.getLsbD_extractLsb', show i - 24 < 8 by omega, show 24 + (i - 24) = i by omega,
          decide_true, Bool.true_and] at this
        simp [show ¬ i < 8 by omega, show ¬ i < 16 by omega, this, BitVec.getLsbD_of_ge _ (i - 16) (show 8 ≤ i - 16 by omega)]

/-- The assembled command word is OP | (A << 8) | (B << 16) (R92). -/
theorem commandWord_eq_or (op a b : Byte) :
    commandWord op a b = op.setWidth 32 ||| (a.setWidth 32 <<< 8) ||| (b.setWidth 32 <<< 16) := by
  apply BitVec.eq_of_getLsbD_eq
  intro i hi
  rw [getLsbD_commandWord]
  simp only [BitVec.getLsbD_or, BitVec.getLsbD_shiftLeft, BitVec.getLsbD_setWidth]
  rcases Nat.lt_or_ge i 8 with h | h
  · simp [h, hi, show i < 16 by omega]
  · rcases Nat.lt_or_ge i 16 with h' | h'
    · simp [show ¬ i < 8 by omega, h', hi, BitVec.getLsbD_of_ge op i (by omega), show i - 8 < 32 by omega]
    · simp [show ¬ i < 8 by omega, show ¬ i < 16 by omega, hi, BitVec.getLsbD_of_ge op i (by omega),
        BitVec.getLsbD_of_ge a (i - 8) (by omega), show i - 16 < 32 by omega]

@[simp] theorem decode_commandWord (op a b : Byte) : decode (commandWord op a b) = decodeOp op a b := by
  simp [decode]

end Sys2Proof
end

