-- ==== Sys2Proof/Laws/State.lean ====
section
/-!
SUPPORT. The small lemmas of the state: what each named update of `State` leaves in each field, so that no later proof
unfolds a record update, and that an update keeps NSLOT.
-/

namespace Sys2Proof.Machine

/-! ### latchError -/

@[simp] theorem latchError_sec (e : Err) (cw : Reg32) (s : State) : (latchError e cw s).sec = s.sec := rfl
@[simp] theorem latchError_sh (e : Err) (cw : Reg32) (s : State) : (latchError e cw s).sh = s.sh := rfl
@[simp] theorem latchError_cb (e : Err) (cw : Reg32) (s : State) : (latchError e cw s).cb = s.cb := rfl
@[simp] theorem latchError_blen (e : Err) (cw : Reg32) (s : State) : (latchError e cw s).blen = s.blen := rfl
@[simp] theorem latchError_w (e : Err) (cw : Reg32) (s : State) : (latchError e cw s).w = s.w := rfl
@[simp] theorem latchError_wcnt (e : Err) (cw : Reg32) (s : State) : (latchError e cw s).wcnt = s.wcnt := rfl
@[simp] theorem latchError_idxr (e : Err) (cw : Reg32) (s : State) : (latchError e cw s).idxr = s.idxr := rfl
@[simp] theorem latchError_wordin (e : Err) (cw : Reg32) (s : State) : (latchError e cw s).wordin = s.wordin := rfl
@[simp] theorem latchError_wordout (e : Err) (cw : Reg32) (s : State) : (latchError e cw s).wordout = s.wordout := rfl
@[simp] theorem latchError_gfa (e : Err) (cw : Reg32) (s : State) : (latchError e cw s).gfa = s.gfa := rfl
@[simp] theorem latchError_gfb (e : Err) (cw : Reg32) (s : State) : (latchError e cw s).gfb = s.gfb := rfl
@[simp] theorem latchError_gfr (e : Err) (cw : Reg32) (s : State) : (latchError e cw s).gfr = s.gfr := rfl
@[simp] theorem latchError_errcode (e : Err) (cw : Reg32) (s : State) : (latchError e cw s).errcode = e.code := rfl
@[simp] theorem latchError_errinfo (e : Err) (cw : Reg32) (s : State) : (latchError e cw s).errinfo = cw := rfl
@[simp] theorem latchError_poly (e : Err) (cw : Reg32) (s : State) : (latchError e cw s).poly = s.poly := rfl
@[simp] theorem latchError_rom (e : Err) (cw : Reg32) (s : State) : (latchError e cw s).rom = s.rom := rfl
@[simp] theorem latchError_rngQueue (e : Err) (cw : Reg32) (s : State) : (latchError e cw s).rngQueue = s.rngQueue := rfl
@[simp] theorem latchError_rngDrawn (e : Err) (cw : Reg32) (s : State) : (latchError e cw s).rngDrawn = s.rngDrawn := rfl
@[simp] theorem latchError_rngAnswers (e : Err) (cw : Reg32) (s : State) : (latchError e cw s).rngAnswers = s.rngAnswers := rfl
@[simp] theorem latchError_port (e : Err) (cw : Reg32) (s : State) : (latchError e cw s).port = s.port := rfl
@[simp] theorem latchError_answers (e : Err) (cw : Reg32) (s : State) : (latchError e cw s).answers = s.answers := rfl
@[simp] theorem latchError_nslot (e : Err) (cw : Reg32) (s : State) : (latchError e cw s).nslot = s.nslot := rfl
@[simp] theorem latchError_slot (e : Err) (cw : Reg32) (s : State) (m : Nat) : (latchError e cw s).slot m = s.slot m := rfl

/-! ### clearLatch -/

@[simp] theorem clearLatch_sec (s : State) : (clearLatch s).sec = s.sec := rfl
@[simp] theorem clearLatch_sh (s : State) : (clearLatch s).sh = s.sh := rfl
@[simp] theorem clearLatch_cb (s : State) : (clearLatch s).cb = s.cb := rfl
@[simp] theorem clearLatch_blen (s : State) : (clearLatch s).blen = s.blen := rfl
@[simp] theorem clearLatch_w (s : State) : (clearLatch s).w = s.w := rfl
@[simp] theorem clearLatch_wcnt (s : State) : (clearLatch s).wcnt = s.wcnt := rfl
@[simp] theorem clearLatch_idxr (s : State) : (clearLatch s).idxr = s.idxr := rfl
@[simp] theorem clearLatch_wordin (s : State) : (clearLatch s).wordin = s.wordin := rfl
@[simp] theorem clearLatch_wordout (s : State) : (clearLatch s).wordout = s.wordout := rfl
@[simp] theorem clearLatch_gfa (s : State) : (clearLatch s).gfa = s.gfa := rfl
@[simp] theorem clearLatch_gfb (s : State) : (clearLatch s).gfb = s.gfb := rfl
@[simp] theorem clearLatch_gfr (s : State) : (clearLatch s).gfr = s.gfr := rfl
@[simp] theorem clearLatch_errcode (s : State) : (clearLatch s).errcode = 0 := rfl
@[simp] theorem clearLatch_errinfo (s : State) : (clearLatch s).errinfo = 0 := rfl
@[simp] theorem clearLatch_poly (s : State) : (clearLatch s).poly = s.poly := rfl
@[simp] theorem clearLatch_rom (s : State) : (clearLatch s).rom = s.rom := rfl
@[simp] theorem clearLatch_rngQueue (s : State) : (clearLatch s).rngQueue = s.rngQueue := rfl
@[simp] theorem clearLatch_rngDrawn (s : State) : (clearLatch s).rngDrawn = s.rngDrawn := rfl
@[simp] theorem clearLatch_rngAnswers (s : State) : (clearLatch s).rngAnswers = s.rngAnswers := rfl
@[simp] theorem clearLatch_port (s : State) : (clearLatch s).port = s.port := rfl
@[simp] theorem clearLatch_answers (s : State) : (clearLatch s).answers = s.answers := rfl
@[simp] theorem clearLatch_nslot (s : State) : (clearLatch s).nslot = s.nslot := rfl
@[simp] theorem clearLatch_slot (s : State) (m : Nat) : (clearLatch s).slot m = s.slot m := rfl

/-! ### putRng -/

@[simp] theorem putRng_sec (q : List Byte) (d : Nat) (s : State) : (putRng q d s).sec = s.sec := rfl
@[simp] theorem putRng_sh (q : List Byte) (d : Nat) (s : State) : (putRng q d s).sh = s.sh := rfl
@[simp] theorem putRng_cb (q : List Byte) (d : Nat) (s : State) : (putRng q d s).cb = s.cb := rfl
@[simp] theorem putRng_blen (q : List Byte) (d : Nat) (s : State) : (putRng q d s).blen = s.blen := rfl
@[simp] theorem putRng_w (q : List Byte) (d : Nat) (s : State) : (putRng q d s).w = s.w := rfl
@[simp] theorem putRng_wcnt (q : List Byte) (d : Nat) (s : State) : (putRng q d s).wcnt = s.wcnt := rfl
@[simp] theorem putRng_idxr (q : List Byte) (d : Nat) (s : State) : (putRng q d s).idxr = s.idxr := rfl
@[simp] theorem putRng_wordin (q : List Byte) (d : Nat) (s : State) : (putRng q d s).wordin = s.wordin := rfl
@[simp] theorem putRng_wordout (q : List Byte) (d : Nat) (s : State) : (putRng q d s).wordout = s.wordout := rfl
@[simp] theorem putRng_gfa (q : List Byte) (d : Nat) (s : State) : (putRng q d s).gfa = s.gfa := rfl
@[simp] theorem putRng_gfb (q : List Byte) (d : Nat) (s : State) : (putRng q d s).gfb = s.gfb := rfl
@[simp] theorem putRng_gfr (q : List Byte) (d : Nat) (s : State) : (putRng q d s).gfr = s.gfr := rfl
@[simp] theorem putRng_errcode (q : List Byte) (d : Nat) (s : State) : (putRng q d s).errcode = s.errcode := rfl
@[simp] theorem putRng_errinfo (q : List Byte) (d : Nat) (s : State) : (putRng q d s).errinfo = s.errinfo := rfl
@[simp] theorem putRng_poly (q : List Byte) (d : Nat) (s : State) : (putRng q d s).poly = s.poly := rfl
@[simp] theorem putRng_rom (q : List Byte) (d : Nat) (s : State) : (putRng q d s).rom = s.rom := rfl
@[simp] theorem putRng_rngQueue (q : List Byte) (d : Nat) (s : State) : (putRng q d s).rngQueue = q := rfl
@[simp] theorem putRng_rngDrawn (q : List Byte) (d : Nat) (s : State) : (putRng q d s).rngDrawn = d := rfl
@[simp] theorem putRng_rngAnswers (q : List Byte) (d : Nat) (s : State) : (putRng q d s).rngAnswers = s.rngAnswers := rfl
@[simp] theorem putRng_port (q : List Byte) (d : Nat) (s : State) : (putRng q d s).port = s.port := rfl
@[simp] theorem putRng_answers (q : List Byte) (d : Nat) (s : State) : (putRng q d s).answers = s.answers := rfl
@[simp] theorem putRng_nslot (q : List Byte) (d : Nat) (s : State) : (putRng q d s).nslot = s.nslot := rfl
@[simp] theorem putRng_slot (q : List Byte) (d : Nat) (s : State) (m : Nat) : (putRng q d s).slot m = s.slot m := rfl

/-! ### putW -/

@[simp] theorem putW_sec (ws : WordBuf) (s : State) : (putW ws s).sec = s.sec := rfl
@[simp] theorem putW_sh (ws : WordBuf) (s : State) : (putW ws s).sh = s.sh := rfl
@[simp] theorem putW_cb (ws : WordBuf) (s : State) : (putW ws s).cb = s.cb := rfl
@[simp] theorem putW_blen (ws : WordBuf) (s : State) : (putW ws s).blen = s.blen := rfl
@[simp] theorem putW_w (ws : WordBuf) (s : State) : (putW ws s).w = ws := rfl
@[simp] theorem putW_wcnt (ws : WordBuf) (s : State) : (putW ws s).wcnt = s.wcnt := rfl
@[simp] theorem putW_idxr (ws : WordBuf) (s : State) : (putW ws s).idxr = s.idxr := rfl
@[simp] theorem putW_wordin (ws : WordBuf) (s : State) : (putW ws s).wordin = s.wordin := rfl
@[simp] theorem putW_wordout (ws : WordBuf) (s : State) : (putW ws s).wordout = s.wordout := rfl
@[simp] theorem putW_gfa (ws : WordBuf) (s : State) : (putW ws s).gfa = s.gfa := rfl
@[simp] theorem putW_gfb (ws : WordBuf) (s : State) : (putW ws s).gfb = s.gfb := rfl
@[simp] theorem putW_gfr (ws : WordBuf) (s : State) : (putW ws s).gfr = s.gfr := rfl
@[simp] theorem putW_errcode (ws : WordBuf) (s : State) : (putW ws s).errcode = s.errcode := rfl
@[simp] theorem putW_errinfo (ws : WordBuf) (s : State) : (putW ws s).errinfo = s.errinfo := rfl
@[simp] theorem putW_poly (ws : WordBuf) (s : State) : (putW ws s).poly = s.poly := rfl
@[simp] theorem putW_rom (ws : WordBuf) (s : State) : (putW ws s).rom = s.rom := rfl
@[simp] theorem putW_rngQueue (ws : WordBuf) (s : State) : (putW ws s).rngQueue = s.rngQueue := rfl
@[simp] theorem putW_rngDrawn (ws : WordBuf) (s : State) : (putW ws s).rngDrawn = s.rngDrawn := rfl
@[simp] theorem putW_rngAnswers (ws : WordBuf) (s : State) : (putW ws s).rngAnswers = s.rngAnswers := rfl
@[simp] theorem putW_port (ws : WordBuf) (s : State) : (putW ws s).port = s.port := rfl
@[simp] theorem putW_answers (ws : WordBuf) (s : State) : (putW ws s).answers = s.answers := rfl
@[simp] theorem putW_nslot (ws : WordBuf) (s : State) : (putW ws s).nslot = s.nslot := rfl
@[simp] theorem putW_slot (ws : WordBuf) (s : State) (m : Nat) : (putW ws s).slot m = s.slot m := rfl

/-! ### putWords -/

@[simp] theorem putWords_sec (ws : WordBuf) (n : BitVec 4) (s : State) : (putWords ws n s).sec = s.sec := rfl
@[simp] theorem putWords_sh (ws : WordBuf) (n : BitVec 4) (s : State) : (putWords ws n s).sh = s.sh := rfl
@[simp] theorem putWords_cb (ws : WordBuf) (n : BitVec 4) (s : State) : (putWords ws n s).cb = s.cb := rfl
@[simp] theorem putWords_blen (ws : WordBuf) (n : BitVec 4) (s : State) : (putWords ws n s).blen = s.blen := rfl
@[simp] theorem putWords_w (ws : WordBuf) (n : BitVec 4) (s : State) : (putWords ws n s).w = ws := rfl
@[simp] theorem putWords_wcnt (ws : WordBuf) (n : BitVec 4) (s : State) : (putWords ws n s).wcnt = n := rfl
@[simp] theorem putWords_idxr (ws : WordBuf) (n : BitVec 4) (s : State) : (putWords ws n s).idxr = s.idxr := rfl
@[simp] theorem putWords_wordin (ws : WordBuf) (n : BitVec 4) (s : State) : (putWords ws n s).wordin = s.wordin := rfl
@[simp] theorem putWords_wordout (ws : WordBuf) (n : BitVec 4) (s : State) : (putWords ws n s).wordout = s.wordout := rfl
@[simp] theorem putWords_gfa (ws : WordBuf) (n : BitVec 4) (s : State) : (putWords ws n s).gfa = s.gfa := rfl
@[simp] theorem putWords_gfb (ws : WordBuf) (n : BitVec 4) (s : State) : (putWords ws n s).gfb = s.gfb := rfl
@[simp] theorem putWords_gfr (ws : WordBuf) (n : BitVec 4) (s : State) : (putWords ws n s).gfr = s.gfr := rfl
@[simp] theorem putWords_errcode (ws : WordBuf) (n : BitVec 4) (s : State) : (putWords ws n s).errcode = s.errcode := rfl
@[simp] theorem putWords_errinfo (ws : WordBuf) (n : BitVec 4) (s : State) : (putWords ws n s).errinfo = s.errinfo := rfl
@[simp] theorem putWords_poly (ws : WordBuf) (n : BitVec 4) (s : State) : (putWords ws n s).poly = s.poly := rfl
@[simp] theorem putWords_rom (ws : WordBuf) (n : BitVec 4) (s : State) : (putWords ws n s).rom = s.rom := rfl
@[simp] theorem putWords_rngQueue (ws : WordBuf) (n : BitVec 4) (s : State) : (putWords ws n s).rngQueue = s.rngQueue := rfl
@[simp] theorem putWords_rngDrawn (ws : WordBuf) (n : BitVec 4) (s : State) : (putWords ws n s).rngDrawn = s.rngDrawn := rfl
@[simp] theorem putWords_rngAnswers (ws : WordBuf) (n : BitVec 4) (s : State) : (putWords ws n s).rngAnswers = s.rngAnswers := rfl
@[simp] theorem putWords_port (ws : WordBuf) (n : BitVec 4) (s : State) : (putWords ws n s).port = s.port := rfl
@[simp] theorem putWords_answers (ws : WordBuf) (n : BitVec 4) (s : State) : (putWords ws n s).answers = s.answers := rfl
@[simp] theorem putWords_nslot (ws : WordBuf) (n : BitVec 4) (s : State) : (putWords ws n s).nslot = s.nslot := rfl
@[simp] theorem putWords_slot (ws : WordBuf) (n : BitVec 4) (s : State) (m : Nat) : (putWords ws n s).slot m = s.slot m := rfl

/-! ### putCodec -/

@[simp] theorem putCodec_sec (bs : Chunk) (n : BitVec 5) (s : State) : (putCodec bs n s).sec = s.sec := rfl
@[simp] theorem putCodec_sh (bs : Chunk) (n : BitVec 5) (s : State) : (putCodec bs n s).sh = s.sh := rfl
@[simp] theorem putCodec_cb (bs : Chunk) (n : BitVec 5) (s : State) : (putCodec bs n s).cb = bs := rfl
@[simp] theorem putCodec_blen (bs : Chunk) (n : BitVec 5) (s : State) : (putCodec bs n s).blen = n := rfl
@[simp] theorem putCodec_w (bs : Chunk) (n : BitVec 5) (s : State) : (putCodec bs n s).w = s.w := rfl
@[simp] theorem putCodec_wcnt (bs : Chunk) (n : BitVec 5) (s : State) : (putCodec bs n s).wcnt = s.wcnt := rfl
@[simp] theorem putCodec_idxr (bs : Chunk) (n : BitVec 5) (s : State) : (putCodec bs n s).idxr = s.idxr := rfl
@[simp] theorem putCodec_wordin (bs : Chunk) (n : BitVec 5) (s : State) : (putCodec bs n s).wordin = s.wordin := rfl
@[simp] theorem putCodec_wordout (bs : Chunk) (n : BitVec 5) (s : State) : (putCodec bs n s).wordout = s.wordout := rfl
@[simp] theorem putCodec_gfa (bs : Chunk) (n : BitVec 5) (s : State) : (putCodec bs n s).gfa = s.gfa := rfl
@[simp] theorem putCodec_gfb (bs : Chunk) (n : BitVec 5) (s : State) : (putCodec bs n s).gfb = s.gfb := rfl
@[simp] theorem putCodec_gfr (bs : Chunk) (n : BitVec 5) (s : State) : (putCodec bs n s).gfr = s.gfr := rfl
@[simp] theorem putCodec_errcode (bs : Chunk) (n : BitVec 5) (s : State) : (putCodec bs n s).errcode = s.errcode := rfl
@[simp] theorem putCodec_errinfo (bs : Chunk) (n : BitVec 5) (s : State) : (putCodec bs n s).errinfo = s.errinfo := rfl
@[simp] theorem putCodec_poly (bs : Chunk) (n : BitVec 5) (s : State) : (putCodec bs n s).poly = s.poly := rfl
@[simp] theorem putCodec_rom (bs : Chunk) (n : BitVec 5) (s : State) : (putCodec bs n s).rom = s.rom := rfl
@[simp] theorem putCodec_rngQueue (bs : Chunk) (n : BitVec 5) (s : State) : (putCodec bs n s).rngQueue = s.rngQueue := rfl
@[simp] theorem putCodec_rngDrawn (bs : Chunk) (n : BitVec 5) (s : State) : (putCodec bs n s).rngDrawn = s.rngDrawn := rfl
@[simp] theorem putCodec_rngAnswers (bs : Chunk) (n : BitVec 5) (s : State) : (putCodec bs n s).rngAnswers = s.rngAnswers := rfl
@[simp] theorem putCodec_port (bs : Chunk) (n : BitVec 5) (s : State) : (putCodec bs n s).port = s.port := rfl
@[simp] theorem putCodec_answers (bs : Chunk) (n : BitVec 5) (s : State) : (putCodec bs n s).answers = s.answers := rfl
@[simp] theorem putCodec_nslot (bs : Chunk) (n : BitVec 5) (s : State) : (putCodec bs n s).nslot = s.nslot := rfl
@[simp] theorem putCodec_slot (bs : Chunk) (n : BitVec 5) (s : State) (m : Nat) : (putCodec bs n s).slot m = s.slot m := rfl

/-! ### putSec -/

@[simp] theorem putSec_sec (c : Chunk) (s : State) : (putSec c s).sec = c := rfl
@[simp] theorem putSec_sh (c : Chunk) (s : State) : (putSec c s).sh = s.sh := rfl
@[simp] theorem putSec_cb (c : Chunk) (s : State) : (putSec c s).cb = s.cb := rfl
@[simp] theorem putSec_blen (c : Chunk) (s : State) : (putSec c s).blen = s.blen := rfl
@[simp] theorem putSec_w (c : Chunk) (s : State) : (putSec c s).w = s.w := rfl
@[simp] theorem putSec_wcnt (c : Chunk) (s : State) : (putSec c s).wcnt = s.wcnt := rfl
@[simp] theorem putSec_idxr (c : Chunk) (s : State) : (putSec c s).idxr = s.idxr := rfl
@[simp] theorem putSec_wordin (c : Chunk) (s : State) : (putSec c s).wordin = s.wordin := rfl
@[simp] theorem putSec_wordout (c : Chunk) (s : State) : (putSec c s).wordout = s.wordout := rfl
@[simp] theorem putSec_gfa (c : Chunk) (s : State) : (putSec c s).gfa = s.gfa := rfl
@[simp] theorem putSec_gfb (c : Chunk) (s : State) : (putSec c s).gfb = s.gfb := rfl
@[simp] theorem putSec_gfr (c : Chunk) (s : State) : (putSec c s).gfr = s.gfr := rfl
@[simp] theorem putSec_errcode (c : Chunk) (s : State) : (putSec c s).errcode = s.errcode := rfl
@[simp] theorem putSec_errinfo (c : Chunk) (s : State) : (putSec c s).errinfo = s.errinfo := rfl
@[simp] theorem putSec_poly (c : Chunk) (s : State) : (putSec c s).poly = s.poly := rfl
@[simp] theorem putSec_rom (c : Chunk) (s : State) : (putSec c s).rom = s.rom := rfl
@[simp] theorem putSec_rngQueue (c : Chunk) (s : State) : (putSec c s).rngQueue = s.rngQueue := rfl
@[simp] theorem putSec_rngDrawn (c : Chunk) (s : State) : (putSec c s).rngDrawn = s.rngDrawn := rfl
@[simp] theorem putSec_rngAnswers (c : Chunk) (s : State) : (putSec c s).rngAnswers = s.rngAnswers := rfl
@[simp] theorem putSec_port (c : Chunk) (s : State) : (putSec c s).port = s.port := rfl
@[simp] theorem putSec_answers (c : Chunk) (s : State) : (putSec c s).answers = s.answers := rfl
@[simp] theorem putSec_nslot (c : Chunk) (s : State) : (putSec c s).nslot = s.nslot := rfl
@[simp] theorem putSec_slot (c : Chunk) (s : State) (m : Nat) : (putSec c s).slot m = s.slot m := rfl

/-! ### putSlot -/

@[simp] theorem putSlot_sec (k : Nat) (x : Slot) (s : State) : (putSlot k x s).sec = s.sec := rfl
@[simp] theorem putSlot_sh (k : Nat) (x : Slot) (s : State) : (putSlot k x s).sh = s.sh.set k x := rfl
@[simp] theorem putSlot_cb (k : Nat) (x : Slot) (s : State) : (putSlot k x s).cb = s.cb := rfl
@[simp] theorem putSlot_blen (k : Nat) (x : Slot) (s : State) : (putSlot k x s).blen = s.blen := rfl
@[simp] theorem putSlot_w (k : Nat) (x : Slot) (s : State) : (putSlot k x s).w = s.w := rfl
@[simp] theorem putSlot_wcnt (k : Nat) (x : Slot) (s : State) : (putSlot k x s).wcnt = s.wcnt := rfl
@[simp] theorem putSlot_idxr (k : Nat) (x : Slot) (s : State) : (putSlot k x s).idxr = s.idxr := rfl
@[simp] theorem putSlot_wordin (k : Nat) (x : Slot) (s : State) : (putSlot k x s).wordin = s.wordin := rfl
@[simp] theorem putSlot_wordout (k : Nat) (x : Slot) (s : State) : (putSlot k x s).wordout = s.wordout := rfl
@[simp] theorem putSlot_gfa (k : Nat) (x : Slot) (s : State) : (putSlot k x s).gfa = s.gfa := rfl
@[simp] theorem putSlot_gfb (k : Nat) (x : Slot) (s : State) : (putSlot k x s).gfb = s.gfb := rfl
@[simp] theorem putSlot_gfr (k : Nat) (x : Slot) (s : State) : (putSlot k x s).gfr = s.gfr := rfl
@[simp] theorem putSlot_errcode (k : Nat) (x : Slot) (s : State) : (putSlot k x s).errcode = s.errcode := rfl
@[simp] theorem putSlot_errinfo (k : Nat) (x : Slot) (s : State) : (putSlot k x s).errinfo = s.errinfo := rfl
@[simp] theorem putSlot_poly (k : Nat) (x : Slot) (s : State) : (putSlot k x s).poly = s.poly := rfl
@[simp] theorem putSlot_rom (k : Nat) (x : Slot) (s : State) : (putSlot k x s).rom = s.rom := rfl
@[simp] theorem putSlot_rngQueue (k : Nat) (x : Slot) (s : State) : (putSlot k x s).rngQueue = s.rngQueue := rfl
@[simp] theorem putSlot_rngDrawn (k : Nat) (x : Slot) (s : State) : (putSlot k x s).rngDrawn = s.rngDrawn := rfl
@[simp] theorem putSlot_rngAnswers (k : Nat) (x : Slot) (s : State) : (putSlot k x s).rngAnswers = s.rngAnswers := rfl
@[simp] theorem putSlot_port (k : Nat) (x : Slot) (s : State) : (putSlot k x s).port = s.port := rfl
@[simp] theorem putSlot_answers (k : Nat) (x : Slot) (s : State) : (putSlot k x s).answers = s.answers := rfl
@[simp] theorem putSlot_nslot (k : Nat) (x : Slot) (s : State) : (putSlot k x s).nslot = s.nslot := by simp [State.nslot]
theorem putSlot_slot (k : Nat) (x : Slot) (s : State) (m : Nat) (hk : k < s.nslot) :
    (putSlot k x s).slot m = if m = k then x else s.slot m := by
  simp only [State.slot, putSlot_sh, List.getD_eq_getElem?_getD, List.getElem?_set]
  split
  · next h => subst h; simp [show k < s.sh.length from hk]
  · next h => simp [Ne.symm h]

/-! ### putSlots -/

@[simp] theorem putSlots_sec (xs : List Slot) (s : State) : (putSlots xs s).sec = s.sec := rfl
@[simp] theorem putSlots_sh (xs : List Slot) (s : State) : (putSlots xs s).sh = xs := rfl
@[simp] theorem putSlots_cb (xs : List Slot) (s : State) : (putSlots xs s).cb = s.cb := rfl
@[simp] theorem putSlots_blen (xs : List Slot) (s : State) : (putSlots xs s).blen = s.blen := rfl
@[simp] theorem putSlots_w (xs : List Slot) (s : State) : (putSlots xs s).w = s.w := rfl
@[simp] theorem putSlots_wcnt (xs : List Slot) (s : State) : (putSlots xs s).wcnt = s.wcnt := rfl
@[simp] theorem putSlots_idxr (xs : List Slot) (s : State) : (putSlots xs s).idxr = s.idxr := rfl
@[simp] theorem putSlots_wordin (xs : List Slot) (s : State) : (putSlots xs s).wordin = s.wordin := rfl
@[simp] theorem putSlots_wordout (xs : List Slot) (s : State) : (putSlots xs s).wordout = s.wordout := rfl
@[simp] theorem putSlots_gfa (xs : List Slot) (s : State) : (putSlots xs s).gfa = s.gfa := rfl
@[simp] theorem putSlots_gfb (xs : List Slot) (s : State) : (putSlots xs s).gfb = s.gfb := rfl
@[simp] theorem putSlots_gfr (xs : List Slot) (s : State) : (putSlots xs s).gfr = s.gfr := rfl
@[simp] theorem putSlots_errcode (xs : List Slot) (s : State) : (putSlots xs s).errcode = s.errcode := rfl
@[simp] theorem putSlots_errinfo (xs : List Slot) (s : State) : (putSlots xs s).errinfo = s.errinfo := rfl
@[simp] theorem putSlots_poly (xs : List Slot) (s : State) : (putSlots xs s).poly = s.poly := rfl
@[simp] theorem putSlots_rom (xs : List Slot) (s : State) : (putSlots xs s).rom = s.rom := rfl
@[simp] theorem putSlots_rngQueue (xs : List Slot) (s : State) : (putSlots xs s).rngQueue = s.rngQueue := rfl
@[simp] theorem putSlots_rngDrawn (xs : List Slot) (s : State) : (putSlots xs s).rngDrawn = s.rngDrawn := rfl
@[simp] theorem putSlots_rngAnswers (xs : List Slot) (s : State) : (putSlots xs s).rngAnswers = s.rngAnswers := rfl
@[simp] theorem putSlots_port (xs : List Slot) (s : State) : (putSlots xs s).port = s.port := rfl
@[simp] theorem putSlots_answers (xs : List Slot) (s : State) : (putSlots xs s).answers = s.answers := rfl
@[simp] theorem putSlots_nslot (xs : List Slot) (s : State) : (putSlots xs s).nslot = xs.length := rfl
@[simp] theorem putSlots_slot (xs : List Slot) (s : State) (m : Nat) : (putSlots xs s).slot m = xs.getD m Slot.empty := rfl

/-! ### putWordin -/

@[simp] theorem putWordin_sec (x : Chars) (s : State) : (putWordin x s).sec = s.sec := rfl
@[simp] theorem putWordin_sh (x : Chars) (s : State) : (putWordin x s).sh = s.sh := rfl
@[simp] theorem putWordin_cb (x : Chars) (s : State) : (putWordin x s).cb = s.cb := rfl
@[simp] theorem putWordin_blen (x : Chars) (s : State) : (putWordin x s).blen = s.blen := rfl
@[simp] theorem putWordin_w (x : Chars) (s : State) : (putWordin x s).w = s.w := rfl
@[simp] theorem putWordin_wcnt (x : Chars) (s : State) : (putWordin x s).wcnt = s.wcnt := rfl
@[simp] theorem putWordin_idxr (x : Chars) (s : State) : (putWordin x s).idxr = s.idxr := rfl
@[simp] theorem putWordin_wordin (x : Chars) (s : State) : (putWordin x s).wordin = x := rfl
@[simp] theorem putWordin_wordout (x : Chars) (s : State) : (putWordin x s).wordout = s.wordout := rfl
@[simp] theorem putWordin_gfa (x : Chars) (s : State) : (putWordin x s).gfa = s.gfa := rfl
@[simp] theorem putWordin_gfb (x : Chars) (s : State) : (putWordin x s).gfb = s.gfb := rfl
@[simp] theorem putWordin_gfr (x : Chars) (s : State) : (putWordin x s).gfr = s.gfr := rfl
@[simp] theorem putWordin_errcode (x : Chars) (s : State) : (putWordin x s).errcode = s.errcode := rfl
@[simp] theorem putWordin_errinfo (x : Chars) (s : State) : (putWordin x s).errinfo = s.errinfo := rfl
@[simp] theorem putWordin_poly (x : Chars) (s : State) : (putWordin x s).poly = s.poly := rfl
@[simp] theorem putWordin_rom (x : Chars) (s : State) : (putWordin x s).rom = s.rom := rfl
@[simp] theorem putWordin_rngQueue (x : Chars) (s : State) : (putWordin x s).rngQueue = s.rngQueue := rfl
@[simp] theorem putWordin_rngDrawn (x : Chars) (s : State) : (putWordin x s).rngDrawn = s.rngDrawn := rfl
@[simp] theorem putWordin_rngAnswers (x : Chars) (s : State) : (putWordin x s).rngAnswers = s.rngAnswers := rfl
@[simp] theorem putWordin_port (x : Chars) (s : State) : (putWordin x s).port = s.port := rfl
@[simp] theorem putWordin_answers (x : Chars) (s : State) : (putWordin x s).answers = s.answers := rfl
@[simp] theorem putWordin_nslot (x : Chars) (s : State) : (putWordin x s).nslot = s.nslot := rfl
@[simp] theorem putWordin_slot (x : Chars) (s : State) (m : Nat) : (putWordin x s).slot m = s.slot m := rfl

/-! ### putWordout -/

@[simp] theorem putWordout_sec (x : Chars) (s : State) : (putWordout x s).sec = s.sec := rfl
@[simp] theorem putWordout_sh (x : Chars) (s : State) : (putWordout x s).sh = s.sh := rfl
@[simp] theorem putWordout_cb (x : Chars) (s : State) : (putWordout x s).cb = s.cb := rfl
@[simp] theorem putWordout_blen (x : Chars) (s : State) : (putWordout x s).blen = s.blen := rfl
@[simp] theorem putWordout_w (x : Chars) (s : State) : (putWordout x s).w = s.w := rfl
@[simp] theorem putWordout_wcnt (x : Chars) (s : State) : (putWordout x s).wcnt = s.wcnt := rfl
@[simp] theorem putWordout_idxr (x : Chars) (s : State) : (putWordout x s).idxr = s.idxr := rfl
@[simp] theorem putWordout_wordin (x : Chars) (s : State) : (putWordout x s).wordin = s.wordin := rfl
@[simp] theorem putWordout_wordout (x : Chars) (s : State) : (putWordout x s).wordout = x := rfl
@[simp] theorem putWordout_gfa (x : Chars) (s : State) : (putWordout x s).gfa = s.gfa := rfl
@[simp] theorem putWordout_gfb (x : Chars) (s : State) : (putWordout x s).gfb = s.gfb := rfl
@[simp] theorem putWordout_gfr (x : Chars) (s : State) : (putWordout x s).gfr = s.gfr := rfl
@[simp] theorem putWordout_errcode (x : Chars) (s : State) : (putWordout x s).errcode = s.errcode := rfl
@[simp] theorem putWordout_errinfo (x : Chars) (s : State) : (putWordout x s).errinfo = s.errinfo := rfl
@[simp] theorem putWordout_poly (x : Chars) (s : State) : (putWordout x s).poly = s.poly := rfl
@[simp] theorem putWordout_rom (x : Chars) (s : State) : (putWordout x s).rom = s.rom := rfl
@[simp] theorem putWordout_rngQueue (x : Chars) (s : State) : (putWordout x s).rngQueue = s.rngQueue := rfl
@[simp] theorem putWordout_rngDrawn (x : Chars) (s : State) : (putWordout x s).rngDrawn = s.rngDrawn := rfl
@[simp] theorem putWordout_rngAnswers (x : Chars) (s : State) : (putWordout x s).rngAnswers = s.rngAnswers := rfl
@[simp] theorem putWordout_port (x : Chars) (s : State) : (putWordout x s).port = s.port := rfl
@[simp] theorem putWordout_answers (x : Chars) (s : State) : (putWordout x s).answers = s.answers := rfl
@[simp] theorem putWordout_nslot (x : Chars) (s : State) : (putWordout x s).nslot = s.nslot := rfl
@[simp] theorem putWordout_slot (x : Chars) (s : State) (m : Nat) : (putWordout x s).slot m = s.slot m := rfl

/-! ### putIdxr -/

@[simp] theorem putIdxr_sec (x : BitVec 4) (s : State) : (putIdxr x s).sec = s.sec := rfl
@[simp] theorem putIdxr_sh (x : BitVec 4) (s : State) : (putIdxr x s).sh = s.sh := rfl
@[simp] theorem putIdxr_cb (x : BitVec 4) (s : State) : (putIdxr x s).cb = s.cb := rfl
@[simp] theorem putIdxr_blen (x : BitVec 4) (s : State) : (putIdxr x s).blen = s.blen := rfl
@[simp] theorem putIdxr_w (x : BitVec 4) (s : State) : (putIdxr x s).w = s.w := rfl
@[simp] theorem putIdxr_wcnt (x : BitVec 4) (s : State) : (putIdxr x s).wcnt = s.wcnt := rfl
@[simp] theorem putIdxr_idxr (x : BitVec 4) (s : State) : (putIdxr x s).idxr = x := rfl
@[simp] theorem putIdxr_wordin (x : BitVec 4) (s : State) : (putIdxr x s).wordin = s.wordin := rfl
@[simp] theorem putIdxr_wordout (x : BitVec 4) (s : State) : (putIdxr x s).wordout = s.wordout := rfl
@[simp] theorem putIdxr_gfa (x : BitVec 4) (s : State) : (putIdxr x s).gfa = s.gfa := rfl
@[simp] theorem putIdxr_gfb (x : BitVec 4) (s : State) : (putIdxr x s).gfb = s.gfb := rfl
@[simp] theorem putIdxr_gfr (x : BitVec 4) (s : State) : (putIdxr x s).gfr = s.gfr := rfl
@[simp] theorem putIdxr_errcode (x : BitVec 4) (s : State) : (putIdxr x s).errcode = s.errcode := rfl
@[simp] theorem putIdxr_errinfo (x : BitVec 4) (s : State) : (putIdxr x s).errinfo = s.errinfo := rfl
@[simp] theorem putIdxr_poly (x : BitVec 4) (s : State) : (putIdxr x s).poly = s.poly := rfl
@[simp] theorem putIdxr_rom (x : BitVec 4) (s : State) : (putIdxr x s).rom = s.rom := rfl
@[simp] theorem putIdxr_rngQueue (x : BitVec 4) (s : State) : (putIdxr x s).rngQueue = s.rngQueue := rfl
@[simp] theorem putIdxr_rngDrawn (x : BitVec 4) (s : State) : (putIdxr x s).rngDrawn = s.rngDrawn := rfl
@[simp] theorem putIdxr_rngAnswers (x : BitVec 4) (s : State) : (putIdxr x s).rngAnswers = s.rngAnswers := rfl
@[simp] theorem putIdxr_port (x : BitVec 4) (s : State) : (putIdxr x s).port = s.port := rfl
@[simp] theorem putIdxr_answers (x : BitVec 4) (s : State) : (putIdxr x s).answers = s.answers := rfl
@[simp] theorem putIdxr_nslot (x : BitVec 4) (s : State) : (putIdxr x s).nslot = s.nslot := rfl
@[simp] theorem putIdxr_slot (x : BitVec 4) (s : State) (m : Nat) : (putIdxr x s).slot m = s.slot m := rfl

/-! ### putGfa -/

@[simp] theorem putGfa_sec (x : Byte) (s : State) : (putGfa x s).sec = s.sec := rfl
@[simp] theorem putGfa_sh (x : Byte) (s : State) : (putGfa x s).sh = s.sh := rfl
@[simp] theorem putGfa_cb (x : Byte) (s : State) : (putGfa x s).cb = s.cb := rfl
@[simp] theorem putGfa_blen (x : Byte) (s : State) : (putGfa x s).blen = s.blen := rfl
@[simp] theorem putGfa_w (x : Byte) (s : State) : (putGfa x s).w = s.w := rfl
@[simp] theorem putGfa_wcnt (x : Byte) (s : State) : (putGfa x s).wcnt = s.wcnt := rfl
@[simp] theorem putGfa_idxr (x : Byte) (s : State) : (putGfa x s).idxr = s.idxr := rfl
@[simp] theorem putGfa_wordin (x : Byte) (s : State) : (putGfa x s).wordin = s.wordin := rfl
@[simp] theorem putGfa_wordout (x : Byte) (s : State) : (putGfa x s).wordout = s.wordout := rfl
@[simp] theorem putGfa_gfa (x : Byte) (s : State) : (putGfa x s).gfa = x := rfl
@[simp] theorem putGfa_gfb (x : Byte) (s : State) : (putGfa x s).gfb = s.gfb := rfl
@[simp] theorem putGfa_gfr (x : Byte) (s : State) : (putGfa x s).gfr = s.gfr := rfl
@[simp] theorem putGfa_errcode (x : Byte) (s : State) : (putGfa x s).errcode = s.errcode := rfl
@[simp] theorem putGfa_errinfo (x : Byte) (s : State) : (putGfa x s).errinfo = s.errinfo := rfl
@[simp] theorem putGfa_poly (x : Byte) (s : State) : (putGfa x s).poly = s.poly := rfl
@[simp] theorem putGfa_rom (x : Byte) (s : State) : (putGfa x s).rom = s.rom := rfl
@[simp] theorem putGfa_rngQueue (x : Byte) (s : State) : (putGfa x s).rngQueue = s.rngQueue := rfl
@[simp] theorem putGfa_rngDrawn (x : Byte) (s : State) : (putGfa x s).rngDrawn = s.rngDrawn := rfl
@[simp] theorem putGfa_rngAnswers (x : Byte) (s : State) : (putGfa x s).rngAnswers = s.rngAnswers := rfl
@[simp] theorem putGfa_port (x : Byte) (s : State) : (putGfa x s).port = s.port := rfl
@[simp] theorem putGfa_answers (x : Byte) (s : State) : (putGfa x s).answers = s.answers := rfl
@[simp] theorem putGfa_nslot (x : Byte) (s : State) : (putGfa x s).nslot = s.nslot := rfl
@[simp] theorem putGfa_slot (x : Byte) (s : State) (m : Nat) : (putGfa x s).slot m = s.slot m := rfl

/-! ### putGfb -/

@[simp] theorem putGfb_sec (x : Byte) (s : State) : (putGfb x s).sec = s.sec := rfl
@[simp] theorem putGfb_sh (x : Byte) (s : State) : (putGfb x s).sh = s.sh := rfl
@[simp] theorem putGfb_cb (x : Byte) (s : State) : (putGfb x s).cb = s.cb := rfl
@[simp] theorem putGfb_blen (x : Byte) (s : State) : (putGfb x s).blen = s.blen := rfl
@[simp] theorem putGfb_w (x : Byte) (s : State) : (putGfb x s).w = s.w := rfl
@[simp] theorem putGfb_wcnt (x : Byte) (s : State) : (putGfb x s).wcnt = s.wcnt := rfl
@[simp] theorem putGfb_idxr (x : Byte) (s : State) : (putGfb x s).idxr = s.idxr := rfl
@[simp] theorem putGfb_wordin (x : Byte) (s : State) : (putGfb x s).wordin = s.wordin := rfl
@[simp] theorem putGfb_wordout (x : Byte) (s : State) : (putGfb x s).wordout = s.wordout := rfl
@[simp] theorem putGfb_gfa (x : Byte) (s : State) : (putGfb x s).gfa = s.gfa := rfl
@[simp] theorem putGfb_gfb (x : Byte) (s : State) : (putGfb x s).gfb = x := rfl
@[simp] theorem putGfb_gfr (x : Byte) (s : State) : (putGfb x s).gfr = s.gfr := rfl
@[simp] theorem putGfb_errcode (x : Byte) (s : State) : (putGfb x s).errcode = s.errcode := rfl
@[simp] theorem putGfb_errinfo (x : Byte) (s : State) : (putGfb x s).errinfo = s.errinfo := rfl
@[simp] theorem putGfb_poly (x : Byte) (s : State) : (putGfb x s).poly = s.poly := rfl
@[simp] theorem putGfb_rom (x : Byte) (s : State) : (putGfb x s).rom = s.rom := rfl
@[simp] theorem putGfb_rngQueue (x : Byte) (s : State) : (putGfb x s).rngQueue = s.rngQueue := rfl
@[simp] theorem putGfb_rngDrawn (x : Byte) (s : State) : (putGfb x s).rngDrawn = s.rngDrawn := rfl
@[simp] theorem putGfb_rngAnswers (x : Byte) (s : State) : (putGfb x s).rngAnswers = s.rngAnswers := rfl
@[simp] theorem putGfb_port (x : Byte) (s : State) : (putGfb x s).port = s.port := rfl
@[simp] theorem putGfb_answers (x : Byte) (s : State) : (putGfb x s).answers = s.answers := rfl
@[simp] theorem putGfb_nslot (x : Byte) (s : State) : (putGfb x s).nslot = s.nslot := rfl
@[simp] theorem putGfb_slot (x : Byte) (s : State) (m : Nat) : (putGfb x s).slot m = s.slot m := rfl

/-! ### putGfr -/

@[simp] theorem putGfr_sec (x : Byte) (s : State) : (putGfr x s).sec = s.sec := rfl
@[simp] theorem putGfr_sh (x : Byte) (s : State) : (putGfr x s).sh = s.sh := rfl
@[simp] theorem putGfr_cb (x : Byte) (s : State) : (putGfr x s).cb = s.cb := rfl
@[simp] theorem putGfr_blen (x : Byte) (s : State) : (putGfr x s).blen = s.blen := rfl
@[simp] theorem putGfr_w (x : Byte) (s : State) : (putGfr x s).w = s.w := rfl
@[simp] theorem putGfr_wcnt (x : Byte) (s : State) : (putGfr x s).wcnt = s.wcnt := rfl
@[simp] theorem putGfr_idxr (x : Byte) (s : State) : (putGfr x s).idxr = s.idxr := rfl
@[simp] theorem putGfr_wordin (x : Byte) (s : State) : (putGfr x s).wordin = s.wordin := rfl
@[simp] theorem putGfr_wordout (x : Byte) (s : State) : (putGfr x s).wordout = s.wordout := rfl
@[simp] theorem putGfr_gfa (x : Byte) (s : State) : (putGfr x s).gfa = s.gfa := rfl
@[simp] theorem putGfr_gfb (x : Byte) (s : State) : (putGfr x s).gfb = s.gfb := rfl
@[simp] theorem putGfr_gfr (x : Byte) (s : State) : (putGfr x s).gfr = x := rfl
@[simp] theorem putGfr_errcode (x : Byte) (s : State) : (putGfr x s).errcode = s.errcode := rfl
@[simp] theorem putGfr_errinfo (x : Byte) (s : State) : (putGfr x s).errinfo = s.errinfo := rfl
@[simp] theorem putGfr_poly (x : Byte) (s : State) : (putGfr x s).poly = s.poly := rfl
@[simp] theorem putGfr_rom (x : Byte) (s : State) : (putGfr x s).rom = s.rom := rfl
@[simp] theorem putGfr_rngQueue (x : Byte) (s : State) : (putGfr x s).rngQueue = s.rngQueue := rfl
@[simp] theorem putGfr_rngDrawn (x : Byte) (s : State) : (putGfr x s).rngDrawn = s.rngDrawn := rfl
@[simp] theorem putGfr_rngAnswers (x : Byte) (s : State) : (putGfr x s).rngAnswers = s.rngAnswers := rfl
@[simp] theorem putGfr_port (x : Byte) (s : State) : (putGfr x s).port = s.port := rfl
@[simp] theorem putGfr_answers (x : Byte) (s : State) : (putGfr x s).answers = s.answers := rfl
@[simp] theorem putGfr_nslot (x : Byte) (s : State) : (putGfr x s).nslot = s.nslot := rfl
@[simp] theorem putGfr_slot (x : Byte) (s : State) (m : Nat) : (putGfr x s).slot m = s.slot m := rfl

/-! ### putPort -/

@[simp] theorem putPort_sec (p : List Event) (s : State) : (putPort p s).sec = s.sec := rfl
@[simp] theorem putPort_sh (p : List Event) (s : State) : (putPort p s).sh = s.sh := rfl
@[simp] theorem putPort_cb (p : List Event) (s : State) : (putPort p s).cb = s.cb := rfl
@[simp] theorem putPort_blen (p : List Event) (s : State) : (putPort p s).blen = s.blen := rfl
@[simp] theorem putPort_w (p : List Event) (s : State) : (putPort p s).w = s.w := rfl
@[simp] theorem putPort_wcnt (p : List Event) (s : State) : (putPort p s).wcnt = s.wcnt := rfl
@[simp] theorem putPort_idxr (p : List Event) (s : State) : (putPort p s).idxr = s.idxr := rfl
@[simp] theorem putPort_wordin (p : List Event) (s : State) : (putPort p s).wordin = s.wordin := rfl
@[simp] theorem putPort_wordout (p : List Event) (s : State) : (putPort p s).wordout = s.wordout := rfl
@[simp] theorem putPort_gfa (p : List Event) (s : State) : (putPort p s).gfa = s.gfa := rfl
@[simp] theorem putPort_gfb (p : List Event) (s : State) : (putPort p s).gfb = s.gfb := rfl
@[simp] theorem putPort_gfr (p : List Event) (s : State) : (putPort p s).gfr = s.gfr := rfl
@[simp] theorem putPort_errcode (p : List Event) (s : State) : (putPort p s).errcode = s.errcode := rfl
@[simp] theorem putPort_errinfo (p : List Event) (s : State) : (putPort p s).errinfo = s.errinfo := rfl
@[simp] theorem putPort_poly (p : List Event) (s : State) : (putPort p s).poly = s.poly := rfl
@[simp] theorem putPort_rom (p : List Event) (s : State) : (putPort p s).rom = s.rom := rfl
@[simp] theorem putPort_rngQueue (p : List Event) (s : State) : (putPort p s).rngQueue = s.rngQueue := rfl
@[simp] theorem putPort_rngDrawn (p : List Event) (s : State) : (putPort p s).rngDrawn = s.rngDrawn := rfl
@[simp] theorem putPort_rngAnswers (p : List Event) (s : State) : (putPort p s).rngAnswers = s.rngAnswers := rfl
@[simp] theorem putPort_port (p : List Event) (s : State) : (putPort p s).port = p := rfl
@[simp] theorem putPort_answers (p : List Event) (s : State) : (putPort p s).answers = s.answers := rfl
@[simp] theorem putPort_nslot (p : List Event) (s : State) : (putPort p s).nslot = s.nslot := rfl
@[simp] theorem putPort_slot (p : List Event) (s : State) (m : Nat) : (putPort p s).slot m = s.slot m := rfl

/-! ### addAnswer -/

@[simp] theorem addAnswer_sec (v : Reg32) (s : State) : (addAnswer v s).sec = s.sec := rfl
@[simp] theorem addAnswer_sh (v : Reg32) (s : State) : (addAnswer v s).sh = s.sh := rfl
@[simp] theorem addAnswer_cb (v : Reg32) (s : State) : (addAnswer v s).cb = s.cb := rfl
@[simp] theorem addAnswer_blen (v : Reg32) (s : State) : (addAnswer v s).blen = s.blen := rfl
@[simp] theorem addAnswer_w (v : Reg32) (s : State) : (addAnswer v s).w = s.w := rfl
@[simp] theorem addAnswer_wcnt (v : Reg32) (s : State) : (addAnswer v s).wcnt = s.wcnt := rfl
@[simp] theorem addAnswer_idxr (v : Reg32) (s : State) : (addAnswer v s).idxr = s.idxr := rfl
@[simp] theorem addAnswer_wordin (v : Reg32) (s : State) : (addAnswer v s).wordin = s.wordin := rfl
@[simp] theorem addAnswer_wordout (v : Reg32) (s : State) : (addAnswer v s).wordout = s.wordout := rfl
@[simp] theorem addAnswer_gfa (v : Reg32) (s : State) : (addAnswer v s).gfa = s.gfa := rfl
@[simp] theorem addAnswer_gfb (v : Reg32) (s : State) : (addAnswer v s).gfb = s.gfb := rfl
@[simp] theorem addAnswer_gfr (v : Reg32) (s : State) : (addAnswer v s).gfr = s.gfr := rfl
@[simp] theorem addAnswer_errcode (v : Reg32) (s : State) : (addAnswer v s).errcode = s.errcode := rfl
@[simp] theorem addAnswer_errinfo (v : Reg32) (s : State) : (addAnswer v s).errinfo = s.errinfo := rfl
@[simp] theorem addAnswer_poly (v : Reg32) (s : State) : (addAnswer v s).poly = s.poly := rfl
@[simp] theorem addAnswer_rom (v : Reg32) (s : State) : (addAnswer v s).rom = s.rom := rfl
@[simp] theorem addAnswer_rngQueue (v : Reg32) (s : State) : (addAnswer v s).rngQueue = s.rngQueue := rfl
@[simp] theorem addAnswer_rngDrawn (v : Reg32) (s : State) : (addAnswer v s).rngDrawn = s.rngDrawn := rfl
@[simp] theorem addAnswer_rngAnswers (v : Reg32) (s : State) : (addAnswer v s).rngAnswers = s.rngAnswers := rfl
@[simp] theorem addAnswer_port (v : Reg32) (s : State) : (addAnswer v s).port = s.port := rfl
@[simp] theorem addAnswer_answers (v : Reg32) (s : State) : (addAnswer v s).answers = s.answers ++ [v] := rfl
@[simp] theorem addAnswer_nslot (v : Reg32) (s : State) : (addAnswer v s).nslot = s.nslot := rfl
@[simp] theorem addAnswer_slot (v : Reg32) (s : State) (m : Nat) : (addAnswer v s).slot m = s.slot m := rfl

/-! ### zeroized -/

@[simp] theorem zeroized_sec (s : State) : (zeroized s).sec = Vector.replicate 16 0 := rfl
@[simp] theorem zeroized_sh (s : State) : (zeroized s).sh = List.replicate s.nslot Slot.empty := rfl
@[simp] theorem zeroized_cb (s : State) : (zeroized s).cb = Vector.replicate 16 0 := rfl
@[simp] theorem zeroized_blen (s : State) : (zeroized s).blen = 0 := rfl
@[simp] theorem zeroized_w (s : State) : (zeroized s).w = Vector.replicate 12 0 := rfl
@[simp] theorem zeroized_wcnt (s : State) : (zeroized s).wcnt = 0 := rfl
@[simp] theorem zeroized_idxr (s : State) : (zeroized s).idxr = 0 := rfl
@[simp] theorem zeroized_wordin (s : State) : (zeroized s).wordin = 0 := rfl
@[simp] theorem zeroized_wordout (s : State) : (zeroized s).wordout = 0 := rfl
@[simp] theorem zeroized_gfa (s : State) : (zeroized s).gfa = 0 := rfl
@[simp] theorem zeroized_gfb (s : State) : (zeroized s).gfb = 0 := rfl
@[simp] theorem zeroized_gfr (s : State) : (zeroized s).gfr = 0 := rfl
@[simp] theorem zeroized_errcode (s : State) : (zeroized s).errcode = s.errcode := rfl
@[simp] theorem zeroized_errinfo (s : State) : (zeroized s).errinfo = s.errinfo := rfl
@[simp] theorem zeroized_poly (s : State) : (zeroized s).poly = s.poly := rfl
@[simp] theorem zeroized_rom (s : State) : (zeroized s).rom = s.rom := rfl
@[simp] theorem zeroized_rngQueue (s : State) : (zeroized s).rngQueue = s.rngQueue := rfl
@[simp] theorem zeroized_rngDrawn (s : State) : (zeroized s).rngDrawn = s.rngDrawn := rfl
@[simp] theorem zeroized_rngAnswers (s : State) : (zeroized s).rngAnswers = s.rngAnswers := rfl
@[simp] theorem zeroized_port (s : State) : (zeroized s).port = s.port := rfl
@[simp] theorem zeroized_answers (s : State) : (zeroized s).answers = s.answers := rfl
@[simp] theorem zeroized_nslot (s : State) : (zeroized s).nslot = s.nslot := by simp [State.nslot]
@[simp] theorem zeroized_slot (s : State) (m : Nat) : (zeroized s).slot m = Slot.empty := by
  simp only [State.slot, zeroized_sh, List.getD_eq_getElem?_getD, List.getElem?_replicate]
  split <;> rfl

/-! ### resetEvent -/

@[simp] theorem resetEvent_sec (s : State) : (resetEvent s).sec = Vector.replicate 16 0 := rfl
@[simp] theorem resetEvent_sh (s : State) : (resetEvent s).sh = List.replicate s.nslot Slot.empty := rfl
@[simp] theorem resetEvent_cb (s : State) : (resetEvent s).cb = Vector.replicate 16 0 := rfl
@[simp] theorem resetEvent_blen (s : State) : (resetEvent s).blen = 0 := rfl
@[simp] theorem resetEvent_w (s : State) : (resetEvent s).w = Vector.replicate 12 0 := rfl
@[simp] theorem resetEvent_wcnt (s : State) : (resetEvent s).wcnt = 0 := rfl
@[simp] theorem resetEvent_idxr (s : State) : (resetEvent s).idxr = 0 := rfl
@[simp] theorem resetEvent_wordin (s : State) : (resetEvent s).wordin = 0 := rfl
@[simp] theorem resetEvent_wordout (s : State) : (resetEvent s).wordout = 0 := rfl
@[simp] theorem resetEvent_gfa (s : State) : (resetEvent s).gfa = 0 := rfl
@[simp] theorem resetEvent_gfb (s : State) : (resetEvent s).gfb = 0 := rfl
@[simp] theorem resetEvent_gfr (s : State) : (resetEvent s).gfr = 0 := rfl
@[simp] theorem resetEvent_errcode (s : State) : (resetEvent s).errcode = 0 := rfl
@[simp] theorem resetEvent_errinfo (s : State) : (resetEvent s).errinfo = 0 := rfl
@[simp] theorem resetEvent_poly (s : State) : (resetEvent s).poly = s.poly := rfl
@[simp] theorem resetEvent_rom (s : State) : (resetEvent s).rom = s.rom := rfl
@[simp] theorem resetEvent_rngQueue (s : State) : (resetEvent s).rngQueue = s.rngQueue := rfl
@[simp] theorem resetEvent_rngDrawn (s : State) : (resetEvent s).rngDrawn = s.rngDrawn := rfl
@[simp] theorem resetEvent_rngAnswers (s : State) : (resetEvent s).rngAnswers = s.rngAnswers := rfl
@[simp] theorem resetEvent_port (s : State) : (resetEvent s).port = s.port := rfl
@[simp] theorem resetEvent_answers (s : State) : (resetEvent s).answers = s.answers := rfl
@[simp] theorem resetEvent_nslot (s : State) : (resetEvent s).nslot = s.nslot := by simp [State.nslot]
@[simp] theorem resetEvent_slot (s : State) (m : Nat) : (resetEvent s).slot m = Slot.empty := by
  simp only [State.slot, resetEvent_sh, List.getD_eq_getElem?_getD, List.getElem?_replicate]
  split <;> rfl

end Sys2Proof.Machine
end

