-- ==== Sys2Proof/Laws/Ops.lean ====
section
/-!
SUPPORT. One lemma for each shared operation that says what it can do: the gate of the latch, the draws from the random source,
and the search of the ROM (spec/60_exceptions.md rules R224 and R226, spec/20_memory.md rule R70, spec/40_mnemonic_codec.md
rule R114).
-/

namespace Sys2Proof.Machine

theorem latched_iff (s : State) : s.latched = true ↔ s.errcode ≠ 0 := by simp [State.latched]

theorem unlessLatched_clear {s : State} {k : Answer} (h : s.errcode = 0) : unlessLatched s k = k := by
  simp [unlessLatched, State.latched, h]

theorem unlessLatched_set {s : State} {k : Answer} (h : s.errcode ≠ 0) : unlessLatched s k = .next s := by
  have : s.latched = true := (latched_iff s).2 h
  simp [unlessLatched, this]

/-- What the gate can do: drop the command, or let it through. -/
theorem unlessLatched_cases {s : State} {k a : Answer} (h : unlessLatched s k = a) :
    (s.errcode ≠ 0 ∧ a = .next s) ∨ (s.errcode = 0 ∧ k = a) := by
  by_cases he : s.errcode = 0
  · exact .inr ⟨he, by rw [unlessLatched_clear he] at h; exact h⟩
  · exact .inl ⟨he, by rw [unlessLatched_set he] at h; exact h.symm⟩

@[simp] theorem errCode_ne_zero (e : Err) : e.code ≠ 0#8 := by cases e <;> decide

/-- One draw takes one byte from the source and touches nothing else. -/
theorem rngDraw_some {s t : State} {b : Byte} (h : rngDraw s = some (b, t)) :
    t = putRng (s.rngQueue.drop 1) (s.rngDrawn + 1) s ∧ ∀ x rest, s.rngQueue = x :: rest → b = x := by
  unfold rngDraw at h
  split at h
  · next x rest hq => cases h; exact ⟨by simp [hq], fun y r e => by rw [hq] at e; cases e; rfl⟩
  · next hq =>
    split at h
    · cases h; exact ⟨by simp [hq], fun y r e => by rw [hq] at e; cases e⟩
    · cases h

/-- A draw gets no answer exactly when no byte is laid out and the source is silent. -/
theorem rngDraw_none {s : State} : rngDraw s = none ↔ s.rngQueue = [] ∧ s.rngAnswers = false := by
  unfold rngDraw
  split
  · next hq => simp [hq]
  · next hq => split <;> simp_all

/-- `n` draws take `n` bytes from the source, the laid out ones first, and touch nothing else. -/
theorem rngDraws_some {n : Nat} {s t : State} {r : List Byte} (h : rngDraws n s = some (r, t)) :
    t = putRng (s.rngQueue.drop n) (s.rngDrawn + n) s ∧ r.length = n ∧ r.take s.rngQueue.length = s.rngQueue.take n := by
  induction n generalizing s r t with
  | zero => cases h; simp [putRng]
  | succ n ih =>
    simp only [rngDraws] at h
    cases hd : rngDraw s with
    | none => simp [hd] at h
    | some p =>
      obtain ⟨b, s1⟩ := p
      cases hr : rngDraws n s1 with
      | none => simp [hd, hr] at h
      | some q =>
        obtain ⟨bs, s2⟩ := q
        simp only [hd, hr, Option.some.injEq, Prod.mk.injEq] at h
        obtain ⟨rfl, rfl⟩ := h
        obtain ⟨rfl, hb⟩ := rngDraw_some hd
        obtain ⟨rfl, hl, ht⟩ := ih hr
        refine ⟨?_, by simp [hl], ?_⟩
        · simp [putRng]; omega
        · cases hq : s.rngQueue with
          | nil => simp
          | cons x rest =>
            obtain rfl := hb x rest hq
            simpa [hq] using ht

/-- `n` draws get their answers exactly when the source can answer that many. -/
theorem rngDraws_isSome {n : Nat} {s : State} : (rngDraws n s).isSome = true ↔ s.CanDraw n := by
  induction n generalizing s with
  | zero => simp [rngDraws, State.CanDraw]
  | succ n ih =>
    simp only [rngDraws]
    cases hd : rngDraw s with
    | none =>
      have := rngDraw_none.1 hd
      simp [State.CanDraw, this]
    | some p =>
      obtain ⟨b, s1⟩ := p
      have h1 := (rngDraw_some hd).1
      have : (rngDraws n s1).isSome = true ↔ s.CanDraw (n + 1) := by
        rw [ih, h1]
        simp only [State.CanDraw, putRng_rngAnswers, putRng_rngQueue, List.length_drop]
        constructor
        · rintro (h | h)
          · exact .inl h
          · cases hq : s.rngQueue with
            | nil =>
              have : ¬ (s.rngQueue = [] ∧ s.rngAnswers = false) := fun hh => by
                rw [rngDraw_none.2 hh] at hd; cases hd
              simp only [hq, true_and, Bool.not_eq_false] at this
              exact .inl this
            | cons x rest => rw [hq] at h; simp at h ⊢; omega
        · rintro (h | h)
          · exact .inl h
          · exact .inr (by omega)
      rw [← this]
      cases hr : rngDraws n s1 <;> simp [hr]

/-- The search of the ROM finds the least index whose entry is the word. -/
theorem romFind_some {d : Rom} {x : Chars} {i : Fin 2048} (hi : d[i] = x) (hl : ∀ j : Fin 2048, j < i → d[j] ≠ x) :
    romFind d x = some (BitVec.ofNat 11 i) := by
  have : d.toList.findIdx? (fun entry => entry == x) = some i.val := by
    rw [List.findIdx?_eq_some_iff_getElem]
    refine ⟨by simp, by simpa using hi, ?_⟩
    intro j hj
    simpa using hl ⟨j, by omega⟩ hj
  simp [romFind, this]

/-- The search of the ROM finds nothing when no entry is the word. -/
theorem romFind_none {d : Rom} {x : Chars} : romFind d x = none ↔ ∀ i : Fin 2048, d[i] ≠ x := by
  simp only [romFind, Option.map_eq_none_iff, List.findIdx?_eq_none_iff]
  constructor
  · intro h i hx
    have := h d[i] (by simp)
    simp [hx] at this
  · intro h y hy
    rw [Vector.mem_toList_iff, Vector.mem_iff_getElem] at hy
    obtain ⟨i, hi, rfl⟩ := hy
    simpa using h ⟨i, hi⟩

/-- What the search of the ROM answers is an index of an entry that is the word. -/
theorem romRead_of_romFind {d : Rom} {x : Chars} {i : WordIdx} (h : romFind d x = some i) : romRead d i = x := by
  simp only [romFind, Option.map_eq_some_iff, List.findIdx?_eq_some_iff_getElem] at h
  obtain ⟨k, ⟨hk, hx, -⟩, rfl⟩ := h
  have hk' : k < 2048 := by simpa using hk
  simpa [romRead, Nat.mod_eq_of_lt hk'] using hx

end Sys2Proof.Machine
end

