-- ==== Sys2Proof/Laws/Exec.lean ====
section
/-!
SUPPORT. Everything a command can do, said once: `Effect` is the relation between the state before and after a command that
succeeds, and `exec_next` says that a command that answers a next state was dropped, raised one of its errors, or had its
effect (spec/30_encoding.md rule R95, spec/60_exceptions.md rule R224). Later proofs cite these and unfold no meaning.
-/

namespace Sys2Proof.Machine

/-- The effect of a command that succeeds, on a state with the latch clear or, for ERRCLR and ZEROIZE, on any state. -/
def Effect (i : Instr) (s t : State) : Prop :=
  match i with
  | .nop => t = s
  | .errclr => t = clearLatch s
  | .zeroize => t = zeroized s
  | .wclr => t = putWords (Vector.replicate 12 0) 0 s
  | .lookup => s.wcnt ≠ 12 ∧ ∃ x, romFind s.rom s.wordin = some x ∧
      t = putWords (s.w.setIfInBounds s.wcnt.toNat x) (s.wcnt + 1) s
  | .fetch j => operand j < s.wcnt.toNat ∧ t = putWordout (romRead s.rom (wordAt s.w (operand j))) s
  | .pack => t = putWords (wordBufOfList (pack s.codecBytes)) (BitVec.ofNat 4 (pack s.codecBytes).length) s
  | .unpack => t = putCodec (chunkOfList (unpack s.codecWords)) (BitVec.ofNat 5 (unpack s.codecWords).length) s
  | .embed i => 1 ≤ operand i ∧ operand i ≤ 15 ∧ s.wcnt = 12 ∧ t = putW (s.w.set 11 (setIndexField s.w[11] i)) s
  | .extract => s.wcnt = 12 ∧ t = putIdxr (indexField s.w[11]) (putW (s.w.set 11 (clearIndexField s.w[11])) s)
  | .fadd => t = putGfr (gfadd s.gfa s.gfb) s
  | .fmul => t = putGfr (gfmul s.poly s.gfa s.gfb) s
  | .finv => s.gfa ≠ 0 ∧ t = putGfr (gfinv s.poly s.gfa) s
  | .split a n => (2 ≤ operand a ∧ operand a ≤ operand n ∧ operand n ≤ s.nslot) ∧
      ∃ r s1, rngDraws (16 * (operand a - 1)) s = some (r, s1) ∧
        t = putSlots (splitSlots s.poly s.sec r (operand a) (operand n) s.nslot) s1
  | .combine a => (2 ≤ operand a ∧ operand a ≤ s.nslot) ∧ 0 ∉ (validSlots s.sh).map (fun x => x.idx) ∧
      ((validSlots s.sh).map (fun x => x.idx)).Nodup ∧ operand a ≤ (validSlots s.sh).length ∧
      t = putSec (combineChunk s.poly (validSlots s.sh)) s
  | .ldsec => s.blen = 16 ∧ t = putSec s.cb s
  | .stsec => t = putCodec s.sec 16 s
  | .ldsh k i => operand k < s.nslot ∧ i ≠ 0 ∧ s.blen = 16 ∧ t = putSlot (operand k) ⟨true, i, s.cb⟩ s
  | .stsh k => operand k < s.nslot ∧ (s.slot (operand k)).valid = true ∧ t = putCodec (s.slot (operand k)).pay 16 s

/-- The commands that run while the latch is set (R226). -/
def RunsLatched (i : Instr) : Prop := i = .errclr ∨ i = .zeroize

/-- A command dropped by the latch: every command but ERRCLR and ZEROIZE (R226). -/
theorem exec_latched {i : Instr} {s : State} (hi : ¬ RunsLatched i) (h : s.errcode ≠ 0) : exec i s = .next s := by
  cases i <;> first | exact absurd (.inl rfl) hi | exact absurd (.inr rfl) hi | exact unlessLatched_set h

/-- Error entry writes the latch and nothing else, with the latch clear before (R224). -/
def Raises (i : Instr) (s t : State) : Prop := s.errcode = 0 ∧ ∃ e ∈ errorsOf i, t = latchError e (encode i) s

/-- Everything a command that answers a next state can have done. -/
theorem exec_next {i : Instr} {s t : State} (h : exec i s = .next t) :
    (s.errcode ≠ 0 ∧ ¬ RunsLatched i ∧ t = s) ∨ Raises i s t ∨ ((s.errcode = 0 ∨ RunsLatched i) ∧ Effect i s t) := by
  have hn : ∀ {a b : State}, (Host.Outcome.next a : Answer) = .next b → b = a := fun e => by cases e; rfl
  cases i
  case errclr => exact .inr (.inr ⟨.inr (.inl rfl), hn h⟩)
  case zeroize => exact .inr (.inr ⟨.inr (.inr rfl), hn h⟩)
  all_goals
    rcases unlessLatched_cases h with ⟨hl, ht⟩ | ⟨hl, hk⟩
    · exact .inl ⟨hl, by simp [RunsLatched], hn ht.symm⟩
    refine .inr ?_
    try simp only [raise] at hk
  case nop => exact .inr ⟨.inl hl, hn hk⟩
  case wclr => exact .inr ⟨.inl hl, hn hk⟩
  case lookup =>
    split at hk
    · exact .inl ⟨hl, .malformedWord, by simp [errorsOf], hn hk⟩
    · next hw =>
      split at hk
      · exact .inl ⟨hl, .unknownWord, by simp [errorsOf], hn hk⟩
      · next x hx => exact .inr ⟨.inl hl, hw, x, hx, hn hk⟩
  case fetch j =>
    split at hk
    · exact .inl ⟨hl, .badParameter, by simp [errorsOf], hn hk⟩
    · next hj => exact .inr ⟨.inl hl, by omega, hn hk⟩
  case pack => exact .inr ⟨.inl hl, hn hk⟩
  case unpack => exact .inr ⟨.inl hl, hn hk⟩
  case embed i =>
    split at hk
    · exact .inl ⟨hl, .badParameter, by simp [errorsOf], hn hk⟩
    · next hi =>
      split at hk
      · exact .inl ⟨hl, .malformedWord, by simp [errorsOf], hn hk⟩
      · next hw => exact .inr ⟨.inl hl, by omega, by omega, by simpa using hw, hn hk⟩
  case extract =>
    split at hk
    · exact .inl ⟨hl, .malformedWord, by simp [errorsOf], hn hk⟩
    · next hw => exact .inr ⟨.inl hl, by simpa using hw, hn hk⟩
  case fadd => exact .inr ⟨.inl hl, hn hk⟩
  case fmul => exact .inr ⟨.inl hl, hn hk⟩
  case finv =>
    split at hk
    · exact .inl ⟨hl, .badParameter, by simp [errorsOf], hn hk⟩
    · next hg => exact .inr ⟨.inl hl, hg, hn hk⟩
  case split a n =>
    split at hk
    · exact .inl ⟨hl, .badParameter, by simp [errorsOf], hn hk⟩
    · next hp =>
      split at hk
      · cases hk
      · next r s1 hr => exact .inr ⟨.inl hl, Decidable.not_not.1 hp, r, s1, hr, hn hk⟩
  case combine a =>
    split at hk
    · exact .inl ⟨hl, .badParameter, by simp [errorsOf], hn hk⟩
    · next hp =>
      split at hk
      · exact .inl ⟨hl, .badParameter, by simp [errorsOf], hn hk⟩
      · next h0 =>
        split at hk
        · exact .inl ⟨hl, .duplicateIndex, by simp [errorsOf], hn hk⟩
        · next hd =>
          split at hk
          · exact .inl ⟨hl, .insufficientShares, by simp [errorsOf], hn hk⟩
          · next hc =>
            exact .inr ⟨.inl hl, Decidable.not_not.1 hp, h0, Decidable.not_not.1 hd, by omega, hn hk⟩
  case ldsec =>
    split at hk
    · exact .inl ⟨hl, .invalidLength, by simp [errorsOf], hn hk⟩
    · next hb => exact .inr ⟨.inl hl, by simpa using hb, hn hk⟩
  case stsec => exact .inr ⟨.inl hl, hn hk⟩
  case ldsh k i =>
    split at hk
    · exact .inl ⟨hl, .badParameter, by simp [errorsOf], hn hk⟩
    · next hp =>
      split at hk
      · exact .inl ⟨hl, .invalidLength, by simp [errorsOf], hn hk⟩
      · next hb => exact .inr ⟨.inl hl, by omega, fun e => hp (.inr e), by simpa using hb, hn hk⟩
  case stsh k =>
    split at hk
    · exact .inl ⟨hl, .badParameter, by simp [errorsOf], hn hk⟩
    · next hp => exact .inr ⟨.inl hl, by omega, by simpa using fun e => hp (.inr e), hn hk⟩

/-- A command whose effect is possible has it: the converse of the last case of `exec_next`. -/
theorem exec_of_effect {i : Instr} {s t : State} (hl : s.errcode = 0 ∨ RunsLatched i) (h : Effect i s t) :
    exec i s = .next t := by
  have hc : ¬ RunsLatched i → s.errcode = 0 := fun hr => hl.resolve_right hr
  cases i
  case errclr => exact congrArg _ h.symm
  case zeroize => exact congrArg _ h.symm
  all_goals
    have h0 := hc (by simp [RunsLatched])
    refine (unlessLatched_clear h0).trans ?_
    simp only [Effect] at h
  case lookup =>
    obtain ⟨hw, x, hx, rfl⟩ := h
    rw [if_neg hw, hx]
  case fetch j =>
    obtain ⟨hj, rfl⟩ := h
    rw [if_neg (by omega)]
  case embed i =>
    obtain ⟨h1, h2, hw, rfl⟩ := h
    rw [if_neg (by omega), if_neg (by simpa using hw)]
  case extract =>
    obtain ⟨hw, rfl⟩ := h
    rw [if_neg (by simpa using hw)]
  case finv =>
    obtain ⟨hg, rfl⟩ := h
    rw [if_neg hg]
  case split a n =>
    obtain ⟨hp, r, s1, hr, rfl⟩ := h
    rw [if_neg (not_not.2 hp), hr]
  case combine a =>
    obtain ⟨hp, hz, hd, hk, rfl⟩ := h
    rw [if_neg (not_not.2 hp), if_neg hz, if_neg (not_not.2 hd), if_neg (by omega)]
  case ldsec =>
    obtain ⟨hb, rfl⟩ := h
    rw [if_neg (by simpa using hb)]
  case ldsh k i =>
    obtain ⟨hk, hi, hb, rfl⟩ := h
    rw [if_neg (by rintro (e | e); exacts [absurd hk (by omega), hi e]), if_neg (by simpa using hb)]
  case stsh k =>
    obtain ⟨hk, hv, rfl⟩ := h
    rw [if_neg (by rintro (e | e); exacts [absurd hk (by omega), by simp [hv] at e])]
  all_goals rw [h]

/-- A successful command leaves the latch clear if it was clear, and never changes the host's side of the port, the
configuration or the number of slots. -/
theorem effect_keeps {i : Instr} {s t : State} (h : Effect i s t) :
    (s.errcode = 0 → t.errcode = 0) ∧ t.poly = s.poly ∧ t.rom = s.rom ∧ t.nslot = s.nslot ∧
      t.port = s.port ∧ t.answers = s.answers := by
  cases i <;> simp only [Effect] at h
  case split a n =>
    obtain ⟨-, r, s1, hr, rfl⟩ := h
    obtain ⟨rfl, -, -⟩ := rngDraws_some hr
    simp [splitSlots]
  case lookup => obtain ⟨-, x, -, rfl⟩ := h; simp
  all_goals
    first
    | (subst h; simp)
    | (obtain ⟨-, rfl⟩ := h; simp)
    | (obtain ⟨-, -, rfl⟩ := h; simp)
    | (obtain ⟨-, -, -, rfl⟩ := h; simp)
    | (obtain ⟨-, -, -, -, rfl⟩ := h; simp)

end Sys2Proof.Machine
end

