-- ==== Sys2Proof/Laws/Gf256.lean ====
section
/-!
SUPPORT. The multiplication loop of spec/42_field.md rule R143 is linear over exclusive or in each operand, for every value of
POLY; and every bit vector stands for one polynomial (R140).
-/

namespace Sys2Proof.Machine

@[simp] theorem xtime_zero (poly : BitVec 9) : xtime poly 0 = 0 := by simp [xtime]

/-- One shift is linear. -/
theorem xtime_xor (poly : BitVec 9) (a b : Byte) : xtime poly (a ^^^ b) = xtime poly a ^^^ xtime poly b := by
  unfold xtime
  simp only [BitVec.getLsbD_xor, BitVec.shiftLeft_xor_distrib]
  cases a.getLsbD 7 <;> cases b.getLsbD 7 <;> simp
  · ac_rfl
  · ac_rfl
  · rw [show ∀ x y z : Byte, x ^^^ z ^^^ (y ^^^ z) = x ^^^ y ^^^ (z ^^^ z) by intros; ac_rfl]; simp

/-- The accumulator of the loop adds to its result. -/
theorem gfmulLoop_acc (poly : BitVec 9) (n : Nat) (p a b : Byte) :
    gfmulLoop poly n p a b = p ^^^ gfmulLoop poly n 0 a b := by
  induction n generalizing p a b with
  | zero => simp [gfmulLoop]
  | succ n ih =>
    simp only [gfmulLoop]
    rw [ih, ih (if b.getLsbD 0 then 0 ^^^ a else 0)]
    cases b.getLsbD 0 <;> simp [BitVec.xor_assoc]

/-- The loop is linear in its first operand. -/
theorem gfmulLoop_xor_left (poly : BitVec 9) (n : Nat) (a a' b : Byte) :
    gfmulLoop poly n 0 (a ^^^ a') b = gfmulLoop poly n 0 a b ^^^ gfmulLoop poly n 0 a' b := by
  induction n generalizing a a' b with
  | zero => simp [gfmulLoop]
  | succ n ih =>
    simp only [gfmulLoop]
    rw [gfmulLoop_acc, gfmulLoop_acc (a := xtime poly a), gfmulLoop_acc (a := xtime poly a'), xtime_xor, ih]
    cases b.getLsbD 0
    · simp
    · simp; ac_rfl

/-- The loop is linear in its second operand. -/
theorem gfmulLoop_xor_right (poly : BitVec 9) (n : Nat) (a b b' : Byte) :
    gfmulLoop poly n 0 a (b ^^^ b') = gfmulLoop poly n 0 a b ^^^ gfmulLoop poly n 0 a b' := by
  induction n generalizing a b b' with
  | zero => simp [gfmulLoop]
  | succ n ih =>
    simp only [gfmulLoop]
    rw [gfmulLoop_acc, gfmulLoop_acc (b := b >>> 1), gfmulLoop_acc (b := b' >>> 1), BitVec.ushiftRight_xor_distrib, ih,
      BitVec.getLsbD_xor]
    cases b.getLsbD 0 <;> cases b'.getLsbD 0 <;> simp
    · ac_rfl
    · ac_rfl
    · rw [show ∀ x y z : Byte, z ^^^ x ^^^ (z ^^^ y) = z ^^^ z ^^^ (x ^^^ y) by intros; ac_rfl]; simp

/-- Multiplication distributes over exclusive or on the left operand. -/
theorem gfmul_xor_left (poly : BitVec 9) (a a' b : Byte) :
    gfmul poly (a ^^^ a') b = gfmul poly a b ^^^ gfmul poly a' b := gfmulLoop_xor_left poly 8 a a' b

/-- Multiplication distributes over exclusive or on the right operand. -/
theorem gfmul_xor_right (poly : BitVec 9) (a b b' : Byte) :
    gfmul poly a (b ^^^ b') = gfmul poly a b ^^^ gfmul poly a b' := gfmulLoop_xor_right poly 8 a b b'

/-- Every bit vector stands for a polynomial, the sum of the powers of x at its set bits (R140). -/
theorem standsFor_sum {n : Nat} (a : BitVec n) :
    StandsFor a (∑ i ∈ Finset.range n, if a.getLsbD i then (Polynomial.X : Polynomial (ZMod 2)) ^ i else 0) := by
  intro i
  have h : ∀ j, (if a.getLsbD j then (Polynomial.X : Polynomial (ZMod 2)) ^ j else 0).coeff i =
      if i = j then (if a.getLsbD j then 1 else 0) else 0 := by
    intro j
    split <;> simp [Polynomial.coeff_X_pow]
  rw [Polynomial.finsetSum_coeff, Finset.sum_congr rfl fun j _ => h j, Finset.sum_ite_eq]
  split
  · rfl
  · next hi => rw [BitVec.getLsbD_of_ge a i (by simpa using hi)]; rfl

/-- A bit vector stands for no other polynomial. -/
theorem StandsFor.unique {n : Nat} {a : BitVec n} {f g : Polynomial (ZMod 2)} (hf : StandsFor a f) (hg : StandsFor a g) :
    f = g := Polynomial.ext fun i => (hf i).trans (hg i).symm

end Sys2Proof.Machine
end

