-- ==== Sys2Proof/Laws/PerInstr.lean ====
section
/-!
SUPPORT. What holds of every command as syntax, constructor by constructor: its command word decodes to it and selects its own
row of the opcode table (spec/30_encoding.md rules R90 to R92).
-/

namespace Sys2Proof.Laws.RoundTrip

open Sys2Proof

/-- The command word of `i` decodes to `i`, and the row of the table it selects is the row of its name. -/
def Statement (i : Instr) : Prop :=
  decode (encode i) = .ok i ∧ ∃ row ∈ opcodeTable, row.op = i.op ∧ row.selects (encode i) = true

/-- A word selects a row whose mask covers OP, B and Z as soon as OP is the row's and B is 0. -/
theorem selects_maskA (o : Op) (op a : Byte) :
    OpcodeRow.selects ⟨o, 0xFFFF00FF#32, commandWord op 0 0⟩ (commandWord op a 0) = true := by
  rw [OpcodeRow.selects, beq_iff_eq]
  apply BitVec.eq_of_getLsbD_eq
  intro i hi
  rw [BitVec.getLsbD_and, getLsbD_commandWord, getLsbD_commandWord]
  rcases Nat.lt_or_ge i 8 with h | h
  · have : (0xFFFF00FF#32).getLsbD i = true := by interval_cases i <;> rfl
    simp [this, h]
  · rcases Nat.lt_or_ge i 16 with h' | h'
    · have : (0xFFFF00FF#32).getLsbD i = false := by interval_cases i <;> rfl
      simp [this, show ¬ i < 8 by omega]
    · simp [show ¬ i < 8 by omega, show ¬ i < 16 by omega]

/-- A word selects a row whose mask covers OP and Z as soon as OP is the row's. -/
theorem selects_maskAB (o : Op) (op a b : Byte) :
    OpcodeRow.selects ⟨o, 0xFF0000FF#32, commandWord op 0 0⟩ (commandWord op a b) = true := by
  rw [OpcodeRow.selects, beq_iff_eq]
  apply BitVec.eq_of_getLsbD_eq
  intro i hi
  rw [BitVec.getLsbD_and, getLsbD_commandWord, getLsbD_commandWord]
  rcases Nat.lt_or_ge i 8 with h | h
  · have : (0xFF0000FF#32).getLsbD i = true := by interval_cases i <;> rfl
    simp [this, h]
  · rcases Nat.lt_or_ge i 24 with h' | h'
    · have : (0xFF0000FF#32).getLsbD i = false := by interval_cases i <;> rfl
      simp [this, show ¬ i < 8 by omega]
    · simp [show ¬ i < 8 by omega, show ¬ i < 16 by omega, BitVec.getLsbD_of_ge b (i - 16) (by omega)]

theorem nop : Statement .nop := by unfold Statement; decide
theorem errclr : Statement .errclr := by unfold Statement; decide
theorem zeroize : Statement .zeroize := by unfold Statement; decide
theorem wclr : Statement .wclr := by unfold Statement; decide
theorem lookup : Statement .lookup := by unfold Statement; decide
theorem fetch (j : Byte) : Statement (.fetch j) :=
  ⟨by simp [encode, decodeOp, decodeA], ⟨.fetch, 0xFFFF00FF#32, commandWord 0x12#8 0 0⟩, by decide, rfl, selects_maskA _ _ _⟩
theorem pack : Statement .pack := by unfold Statement; decide
theorem unpack : Statement .unpack := by unfold Statement; decide
theorem embed (i : Byte) : Statement (.embed i) :=
  ⟨by simp [encode, decodeOp, decodeA], ⟨.embed, 0xFFFF00FF#32, commandWord 0x18#8 0 0⟩, by decide, rfl, selects_maskA _ _ _⟩
theorem extract : Statement .extract := by unfold Statement; decide
theorem fadd : Statement .fadd := by unfold Statement; decide
theorem fmul : Statement .fmul := by unfold Statement; decide
theorem finv : Statement .finv := by unfold Statement; decide
theorem split (t n : Byte) : Statement (.split t n) :=
  ⟨by simp [encode, decodeOp, decodeAB], ⟨.split, 0xFF0000FF#32, commandWord 0x28#8 0 0⟩, by decide, rfl, selects_maskAB _ _ _ _⟩
theorem combine (t : Byte) : Statement (.combine t) :=
  ⟨by simp [encode, decodeOp, decodeA], ⟨.combine, 0xFFFF00FF#32, commandWord 0x29#8 0 0⟩, by decide, rfl, selects_maskA _ _ _⟩
theorem ldsec : Statement .ldsec := by unfold Statement; decide
theorem stsec : Statement .stsec := by unfold Statement; decide
theorem ldsh (k i : Byte) : Statement (.ldsh k i) :=
  ⟨by simp [encode, decodeOp, decodeAB], ⟨.ldsh, 0xFF0000FF#32, commandWord 0x32#8 0 0⟩, by decide, rfl, selects_maskAB _ _ _ _⟩
theorem stsh (k : Byte) : Statement (.stsh k) :=
  ⟨by simp [encode, decodeOp, decodeA], ⟨.stsh, 0xFFFF00FF#32, commandWord 0x33#8 0 0⟩, by decide, rfl, selects_maskA _ _ _⟩

end Sys2Proof.Laws.RoundTrip
end

