-- ==== Sys2Proof/Laws/Port.lean ====
section
/-!
SUPPORT. The register map of the host port and what a host write can do (spec/20_memory.md rules R61 to R67).
-/

namespace Sys2Proof.Machine

theorem controlRegAt_number {n : Nat} {r : Reg} (h : controlRegAt n = some r) :
    r.number = n ∧ ∀ nslot, r.wellFormed nslot = true := by
  unfold controlRegAt at h
  split at h <;> cases h <;> exact ⟨rfl, fun _ => rfl⟩

theorem bufferRegAt_number {n : Nat} {r : Reg} (h : bufferRegAt n = some r) :
    r.number = n ∧ ∀ nslot, r.wellFormed nslot = true := by
  unfold bufferRegAt at h
  split_ifs at h <;> cases h <;> refine ⟨?_, fun _ => rfl⟩ <;> simp only [Reg.number] <;> omega

theorem slotRegAt_number {nslot m : Nat} {r : Reg} (h : slotRegAt nslot m = some r) :
    r.number = 0x100 + m ∧ r.wellFormed nslot = true := by
  unfold slotRegAt at h
  split_ifs at h with h1 h2 h3
  · cases h; exact ⟨by simp only [Reg.number]; omega, by simpa [Reg.wellFormed] using h1⟩
  · cases h; exact ⟨by simp only [Reg.number]; omega, by simpa [Reg.wellFormed] using h1⟩

/-- A register number names a register exactly when it is that register's number and the register exists (R61). -/
theorem regAtNumber_eq_some {nslot n : Nat} {r : Reg} :
    regAtNumber nslot n = some r ↔ r.wellFormed nslot = true ∧ r.number = n := by
  constructor
  · intro h
    unfold regAtNumber at h
    split_ifs at h with h1 h2
    · exact ⟨(controlRegAt_number h).2 _, (controlRegAt_number h).1⟩
    · exact ⟨(bufferRegAt_number h).2 _, (bufferRegAt_number h).1⟩
    · exact ⟨(slotRegAt_number h).2, by rw [(slotRegAt_number h).1]; omega⟩
  · rintro ⟨hw, rfl⟩
    cases r with
    | sec q => fin_cases q <;> rfl
    | cb q => fin_cases q <;> rfl
    | w j => fin_cases j <;> rfl
    | shidx k =>
      simp only [Reg.wellFormed, decide_eq_true_eq] at hw
      have e1 : 256 + 8 * k - 256 = 8 * k := by omega
      have e2 : 8 * k / 8 = k := by omega
      simp only [Reg.number, regAtNumber, slotRegAt, show ¬ 256 + 8 * k < 16 by omega, if_false,
        show ¬ 256 + 8 * k < 256 by omega, e1, e2, hw, if_true, show 8 * k % 8 = 0 by omega]
    | shpay k q =>
      obtain ⟨q, hq⟩ := q
      simp only [Reg.wellFormed, decide_eq_true_eq] at hw
      have e1 : 256 + 8 * k + 4 + q - 256 = 8 * k + 4 + q := by omega
      have e2 : (8 * k + 4 + q) / 8 = k := by omega
      have e3 : (8 * k + 4 + q) % 8 = 4 + q := by omega
      simp only [Reg.number, regAtNumber, slotRegAt, show ¬ 256 + 8 * k + 4 + q < 16 by omega, if_false,
        show ¬ 256 + 8 * k + 4 + q < 256 by omega, e1, e2, e3, hw, if_true, show ¬ 4 + q = 0 by omega,
        dif_pos (show 4 ≤ 4 + q by omega)]
      simp
    | _ => rfl

/-- A write of one register of a buffer changes that register and no other (R65, R69). -/
@[simp] theorem chunkReg_setChunkReg (x : Chunk) (q q' : Fin 4) (v : Reg32) :
    chunkReg (setChunkReg x q v) q' = if q' = q then v else chunkReg x q' := by
  unfold chunkReg setChunkReg
  simp only [Vector.getElem_ofFn]
  have d3 : (4 * q'.val + 3) / 4 = q'.val := by omega
  have d2 : (4 * q'.val + 2) / 4 = q'.val := by omega
  have d1 : (4 * q'.val + 1) / 4 = q'.val := by omega
  have d0 : (4 * q'.val) / 4 = q'.val := by omega
  have m3 : (4 * q'.val + 3) % 4 = 3 := by omega
  have m2 : (4 * q'.val + 2) % 4 = 2 := by omega
  have m1 : (4 * q'.val + 1) % 4 = 1 := by omega
  have m0 : (4 * q'.val) % 4 = 0 := by omega
  simp only [d3, d2, d1, d0, m3, m2, m1, m0, Fin.val_inj]
  split
  · apply BitVec.eq_of_getLsbD_eq
    intro i hi
    simp only [byteOf32, BitVec.getLsbD_append, BitVec.getLsbD_extractLsb']
    interval_cases i <;> simp
  · rfl

@[simp] theorem charsLo_charsOfHalves (hi lo : Reg32) : charsLo (charsOfHalves hi lo) = lo := by
  apply BitVec.eq_of_getLsbD_eq
  intro i h
  simp only [charsLo, charsOfHalves, BitVec.getLsbD_extractLsb', BitVec.getLsbD_append, h, decide_true,
    Bool.true_and, Nat.zero_add, if_true]

@[simp] theorem charsHi_charsOfHalves (hi lo : Reg32) : charsHi (charsOfHalves hi lo) = hi := by
  apply BitVec.eq_of_getLsbD_eq
  intro i h
  simp only [charsHi, charsOfHalves, BitVec.getLsbD_extractLsb', BitVec.getLsbD_append, h, show ¬ 32 + i < 32 by omega, decide_true,
    Bool.true_and, if_false, Nat.add_sub_cancel_left]

/-- A character register is its two halves. -/
@[simp] theorem charsOfHalves_chars (x : Chars) : charsOfHalves (charsHi x) (charsLo x) = x := by
  apply BitVec.eq_of_getLsbD_eq
  intro i h
  simp only [charsHi, charsLo, charsOfHalves, BitVec.getLsbD_extractLsb', BitVec.getLsbD_append]
  by_cases hi : i < 32
  · simp [hi]
  · simp [hi, show i - 32 < 32 by omega, show 32 + (i - 32) = i by omega]

/-- A host write touches nothing that is not a register of its own: not the latch, the configuration, the random source, the
port, nor any register the host cannot write. -/
theorem writeReg_keeps (v : Reg32) (s : State) (x : Reg) :
    (writeReg v s x).nslot = s.nslot ∧ (writeReg v s x).poly = s.poly ∧ (writeReg v s x).rom = s.rom ∧
    (writeReg v s x).errcode = s.errcode ∧ (writeReg v s x).errinfo = s.errinfo ∧
    (writeReg v s x).idxr = s.idxr ∧ (writeReg v s x).wordout = s.wordout ∧ (writeReg v s x).gfr = s.gfr ∧
    (writeReg v s x).rngQueue = s.rngQueue ∧ (writeReg v s x).rngDrawn = s.rngDrawn ∧
    (writeReg v s x).rngAnswers = s.rngAnswers ∧ (writeReg v s x).port = s.port ∧ (writeReg v s x).answers = s.answers := by
  cases x <;> simp only [writeReg] <;> (try split) <;> simp

/-- The same for a write by register number. -/
theorem writeRegAt_keeps (r : RegNum) (v : Reg32) (s : State) :
    (writeRegAt r v s).nslot = s.nslot ∧ (writeRegAt r v s).poly = s.poly ∧ (writeRegAt r v s).rom = s.rom ∧
    (writeRegAt r v s).errcode = s.errcode ∧ (writeRegAt r v s).errinfo = s.errinfo ∧
    (writeRegAt r v s).idxr = s.idxr ∧ (writeRegAt r v s).wordout = s.wordout ∧ (writeRegAt r v s).gfr = s.gfr ∧
    (writeRegAt r v s).rngQueue = s.rngQueue ∧ (writeRegAt r v s).rngDrawn = s.rngDrawn ∧
    (writeRegAt r v s).rngAnswers = s.rngAnswers ∧ (writeRegAt r v s).port = s.port ∧
    (writeRegAt r v s).answers = s.answers := by
  unfold writeRegAt
  split
  · simp
  · exact writeReg_keeps v s _

/-- The invariants of rule R33 are about four elements only. -/
theorem State.Inv.congr {s t : State} (h : s.Inv) (hb : t.blen = s.blen) (hw : t.wcnt = s.wcnt)
    (hc : t.errcode = s.errcode) (hi : t.errinfo = s.errinfo) : t.Inv := by
  unfold State.Inv
  rw [hb, hw, hc, hi]
  exact h

/-- A host write keeps the invariants of rule R33. -/
theorem writeRegAt_inv (r : RegNum) (v : Reg32) {s : State} (h : s.Inv) : (writeRegAt r v s).Inv := by
  obtain ⟨hb, hw, hc, hi⟩ := h
  unfold writeRegAt
  split
  · exact ⟨hb, hw, hc, hi⟩
  · next x _ =>
    cases x
    case wcnt =>
      simp only [writeReg]; split
      · refine ⟨hb, ?_, hc, hi⟩
        simp only [putWords_wcnt, BitVec.toNat_setWidth]; omega
      · exact ⟨hb, hw, hc, hi⟩
    case blen =>
      simp only [writeReg]; split
      · refine ⟨?_, hw, hc, hi⟩
        simp only [putCodec_blen, BitVec.toNat_setWidth]; omega
      · exact ⟨hb, hw, hc, hi⟩
    all_goals exact State.Inv.congr ⟨hb, hw, hc, hi⟩ (by simp [writeReg]) (by simp [writeReg]) (by simp [writeReg]) (by simp [writeReg])

end Sys2Proof.Machine
end

