-- ==== Sys2Proof/Laws/Step.lean ====
section
/-!
SUPPORT. What a step can do (spec/00_scope.md rules R6 and R7, spec/20_memory.md rules R62 to R64, spec/70_reset_and_hazards.md
rule R250), said once: `step_next` is the inversion that later proofs cite, and a command or a host write neither reads nor
writes the host's side of the port.
-/

namespace Sys2Proof.Machine

/-- Everything a step that answers a next state can have done: nothing, a read, a host write, a command, a command abandoned at a
reset, or a reset. -/
theorem step_next {s t : State} (h : step s = .next t) :
    (s.port = [] ∧ t = s) ∨
    ∃ rest,
      (∃ r, s.port = .read r :: rest ∧ t = addAnswer (portRead r s) (putPort rest s)) ∨
      (∃ r v, s.port = .write r v :: rest ∧ r ≠ 0 ∧ t = writeRegAt r v (putPort rest s)) ∨
      (∃ cw, s.port = .write 0 cw :: rest ∧ runCommand cw (putPort rest s) = .next t) ∨
      (∃ cw later, s.port = .write 0 cw :: rest ∧ rest = .reset :: later ∧
        runCommand cw (putPort rest s) = .fault .rngSilent ∧ t = resetEvent (putPort later s)) ∨
      (s.port = .reset :: rest ∧ t = resetEvent (putPort rest s)) := by
  simp only [step, nextTransaction] at h
  split at h
  · next hp => cases h; exact .inl ⟨hp, rfl⟩
  · next e rest hp =>
    refine .inr ⟨rest, ?_⟩
    cases e with
    | read r => cases h; exact .inl ⟨r, hp, rfl⟩
    | reset => cases h; exact .inr (.inr (.inr (.inr ⟨hp, rfl⟩)))
    | write r v =>
      refine .inr ?_
      by_cases hr : r = 0
      · subst hr
        replace h : abandonAtReset (putPort rest s) (runCommand v (putPort rest s)) = .next t := h
        unfold abandonAtReset at h
        split at h
        · next later hf hl => cases h; exact .inr (.inr (.inl ⟨v, later, hp, hl, hf, rfl⟩))
        · exact .inr (.inl ⟨v, hp, h⟩)
      · replace h : abandonAtReset (putPort rest s) (portWrite r v (putPort rest s)) = .next t := h
        rw [portWrite, if_neg hr] at h
        cases h
        exact .inl ⟨r, v, hp, hr, rfl⟩

/-- Everything a command word that answers a next state can have done. -/
theorem runCommand_next {cw : Reg32} {s t : State} (h : runCommand cw s = .next t) :
    (∃ i, decode cw = .ok i ∧ exec i s = .next t) ∨
    (∃ e, decode cw = .error e ∧ (s.errcode ≠ 0 ∧ t = s ∨ s.errcode = 0 ∧ t = latchError .illegalCommand cw s)) := by
  unfold runCommand at h
  split at h
  · next i hd => exact .inl ⟨i, hd, h⟩
  · next e hd =>
    refine .inr ⟨e, hd, ?_⟩
    rcases unlessLatched_cases h with ⟨hl, ht⟩ | ⟨hl, ht⟩
    · cases ht; exact .inl ⟨hl, rfl⟩
    · cases ht; exact .inr ⟨hl, rfl⟩

/-- A port read does not look at the host's side of the port. -/
@[simp] theorem portRead_putPort (r : RegNum) (p : List Event) (s : State) : portRead r (putPort p s) = portRead r s := by
  unfold portRead
  show (match s.regAt r with | none => 0 | some x => readReg (putPort p s) x) = _
  cases s.regAt r with
  | none => rfl
  | some x => cases x <;> rfl

/-- A port write leaves the pending events alone. -/
theorem writeRegAt_putPort (r : RegNum) (v : Reg32) (p : List Event) (s : State) :
    writeRegAt r v (putPort p s) = putPort p (writeRegAt r v s) := by
  unfold writeRegAt
  show (match s.regAt r with | none => putPort p s | some x => writeReg v (putPort p s) x) = _
  cases s.regAt r with
  | none => rfl
  | some x => cases x <;> simp only [writeReg] <;> (repeat' split) <;> rfl

/-- The draws do not look at the pending events. -/
theorem rngDraws_putPort (n : Nat) (p : List Event) (s : State) :
    rngDraws n (putPort p s) = (rngDraws n s).map fun q => (q.1, putPort p q.2) := by
  induction n generalizing s with
  | zero => rfl
  | succ n ih =>
    have hd : rngDraw (putPort p s) = (rngDraw s).map fun q => (q.1, putPort p q.2) := by
      simp only [rngDraw, putPort_rngQueue, putPort_rngAnswers, putPort_rngDrawn]
      cases s.rngQueue with
      | cons b rest => rfl
      | nil =>
        by_cases ha : s.rngAnswers = true
        · simp [ha]; rfl
        · simp [ha]
    simp only [rngDraws, hd]
    cases rngDraw s with
    | none => rfl
    | some q =>
      obtain ⟨b, s1⟩ := q
      simp only [Option.map_some, ih]
      cases rngDraws n s1 <;> rfl

/-- The answer with its next state changed. -/
def mapNext (f : State → State) : Answer → Answer
  | .next t => .next (f t)
  | .fault e => .fault e
  | .refused e => .refused e

theorem mapNext_ite (f : State → State) (c : Prop) [Decidable c] (a b : Answer) :
    mapNext f (if c then a else b) = if c then mapNext f a else mapNext f b := by
  split <;> rfl

/-- A command does the same whatever events are pending. -/
theorem exec_putPort (i : Instr) (p : List Event) (s : State) :
    exec i (putPort p s) = mapNext (putPort p) (exec i s) := by
  have gate : ∀ {k k' : Answer}, k = mapNext (putPort p) k' →
      unlessLatched (putPort p s) k = mapNext (putPort p) (unlessLatched s k') := by
    intro k k' h
    rw [unlessLatched, unlessLatched, mapNext_ite, h]
    rfl
  cases i
  case errclr => rfl
  case zeroize => rfl
  all_goals refine gate ?_
  case split t n =>
    rw [mapNext_ite, rngDraws_putPort]
    cases rngDraws (16 * (operand t - 1)) s <;> rfl
  case lookup =>
    rw [mapNext_ite]
    show (if s.wcnt = 12 then _ else Host.Outcome.next (match romFind s.rom s.wordin with | none => _ | some _ => _)) = _
    cases romFind s.rom s.wordin <;> rfl
  all_goals
    try simp only [mapNext_ite]
    rfl

/-- A port write does the same whatever events are pending. -/
theorem portWrite_putPort (r : RegNum) (v : Reg32) (p : List Event) (s : State) :
    portWrite r v (putPort p s) = mapNext (putPort p) (portWrite r v s) := by
  unfold portWrite
  split
  · unfold runCommand
    split
    · exact exec_putPort _ p s
    · unfold unlessLatched
      rw [mapNext_ite]
      rfl
  · rw [writeRegAt_putPort]
    rfl

/-- A write first at the port that completes is one step. -/
theorem step_of_portWrite {r : RegNum} {v : Reg32} {s t : State} (p : List Event) (h : portWrite r v s = .next t) :
    step (putPort (.write r v :: p) s) = .next (putPort p t) := by
  show abandonAtReset (putPort p s) (portWrite r v (putPort p s)) = _
  rw [portWrite_putPort, h]
  rfl

end Sys2Proof.Machine
end

