-- ==== Sys2Proof/Tests/Slice0.lean ====
section
/-!
SUPPORT. Tests of the model. Expected values are the worked examples and vectors of the spec (the rule or vector is named at
each test), never the model's own output. Each test is about one command or one transaction on a small state.
-/

namespace Sys2Proof.Tests

open Sys2Proof Sys2Proof.Machine

/- One test after the other: a test that waits for the kernel holds a thread, and many waiting threads hold much memory. -/
set_option Elab.async false

/-! ## Helpers -/

/-- A field of the next state, if there is one. -/
def see {α : Type} (a : Answer) (f : State → α) : Option α :=
  match a with
  | .next s => some (f s)
  | .fault _ => none
  | .refused _ => none

/-- ERRCODE and ERRINFO. -/
def latch (s : State) : Byte × Reg32 := (s.errcode, s.errinfo)

/-- The answer is a next state. -/
def completes (a : Answer) : Bool := (see a fun _ => ()).isSome

/-- Sixteen equal bytes. -/
def sixteen (b : Byte) : Chunk := Vector.replicate 16 b

/-- 00 01 … 0F. -/
def ramp : Chunk := Vector.ofFn fun p => BitVec.ofNat 8 p.val

/-- The state with a codec buffer and its length. -/
def withCodec (c : Chunk) (n : BitVec 5) : State := { State.reset with cb := c, blen := n }

/-- The state with a word buffer and its count. -/
def withWords (x : List WordIdx) (n : BitVec 4) : State := { State.reset with w := wordBufOfList x, wcnt := n }

/-- Twelve words of which only the last is not 0. -/
def withLast (x : WordIdx) : State := withWords (List.replicate 11 0 ++ [x]) 12

/-- The state with the first slots given and the rest empty, NSLOT = 15. -/
def withSlots (xs : List Slot) : State := { State.reset with sh := xs ++ List.replicate (15 - xs.length) Slot.empty }

/-- A valid slot with sixteen equal payload bytes. -/
def share (i b : Byte) : Slot := ⟨true, i, sixteen b⟩

/-- The first ROM entries of 95_test_vectors.md section 2.7, the others empty. -/
def sampleRom : Rom :=
  ⟨⟨[0x006E6F646E616261#64, 0x007974696C696261#64, 0x00000000656C6261#64, 0x00000074756F6261#64] ++
    List.replicate 2044 0⟩, by
    simp only [List.size_toArray, List.length_append, List.length_replicate, List.length_cons, List.length_nil]⟩

/-- The state with the ROM of section 2.7. -/
def withRom (s : State) : State := { s with rom := sampleRom }

/-- The state with bytes laid out at the random source. -/
def withDraws (r : List Byte) (s : State) : State := { s with rngQueue := r }

/-- The state with an error latched. -/
def latchedState : State := { State.reset with errcode := 0x07, errinfo := 0x00000329 }

/-! ## Well-formedness: one ill-formed term for each check

The lines with a slot that is none, a value too wide or a wrong number of operands are illegal by the model's choice (log entry 18),
the operand 256 by rule R97. -/

theorem test_line_wr_ok : (Line.wr (.cb 0) 0x33221100).wellFormed 15 = true := by decide
theorem test_line_wr_no_such_slot : (Line.wr (.shidx 15) 1).wellFormed 15 = false := by decide
theorem test_line_wr_value_too_wide : (Line.wr .gfa 0x100000000).wellFormed 15 = false := by decide
theorem test_line_rd_no_such_slot : (Line.rd (.shpay 20 3)).wellFormed 15 = false := by decide
theorem test_line_cmd_ok : (Line.cmd .split [3, 5]).wellFormed 15 = true := by decide
theorem test_line_cmd_operand_missing : (Line.cmd .split [3]).wellFormed 15 = false := by decide
theorem test_line_cmd_operand_too_many : (Line.cmd .pack [0]).wellFormed 15 = false := by decide
theorem test_line_cmd_operand_too_big : (Line.cmd .fetch [256]).wellFormed 15 = false := by decide
theorem test_poly_not_irreducible : ¬ LegalPoly 0x11A#9 := by decide
theorem test_nslot_out_of_range : ¬ LegalNslot 1 ∧ ¬ LegalNslot 256 := by decide
theorem test_entry_empty : ¬ LegalEntry 0 := fun h => h.1 (by decide)
theorem test_entry_byte_after_nul : ¬ LegalEntry 0x00610061#64 := fun h => absurd (h.2 1 (by decide) (by decide)) (by decide)
theorem test_rom_with_equal_entries : ¬ LegalRom (Vector.replicate 2048 0x61#64) := fun h => by
  simpa using h.2 0 1 (by simp)

/-- The assembled lines of P1, P2 and P4 of 95_test_vectors.md. -/
theorem test_assemble :
    (Line.cmd .split [3, 5]).assemble 15 = some (.write 0x000 0x00050328) ∧
    (Line.wr (.shidx 1) 0x002).assemble 15 = some (.write 0x108 0x002) ∧
    (Line.rd (.shpay 2 3)).assemble 15 = some (.read 0x117) ∧
    (Line.cmd .embed [256]).assemble 15 = none := by decide

/-! ## Decoding: words written out from rule R92 and the vectors -/

theorem test_decode_system :
    decode 0x00000000#32 = .ok .nop ∧ decode 0x00000001#32 = .ok .errclr ∧ decode 0x00000002#32 = .ok .zeroize := by decide
theorem test_decode_codec :
    decode 0x00000010#32 = .ok .wclr ∧ decode 0x00000011#32 = .ok .lookup ∧ decode 0x00000B12#32 = .ok (.fetch 11) ∧
    decode 0x00000013#32 = .ok .pack ∧ decode 0x00000014#32 = .ok .unpack := by decide
theorem test_decode_sharecoder :
    decode 0x00000518#32 = .ok (.embed 5) ∧ decode 0x00000019#32 = .ok .extract := by decide
theorem test_decode_field :
    decode 0x00000020#32 = .ok .fadd ∧ decode 0x00000021#32 = .ok .fmul ∧ decode 0x00000022#32 = .ok .finv := by decide
theorem test_decode_shamir :
    decode 0x00050328#32 = .ok (.split 3 5) ∧ decode 0x00000329#32 = .ok (.combine 3) := by decide
theorem test_decode_transfer :
    decode 0x00000030#32 = .ok .ldsec ∧ decode 0x00000031#32 = .ok .stsec ∧ decode 0x00010F32#32 = .ok (.ldsh 15 1) ∧
    decode 0x00000133#32 = .ok (.stsh 1) := by decide
theorem test_decode_illegal :
    decode 0x01000000#32 = .error .reservedNonzero ∧ decode 0x00000003#32 = .error .unknownOpcode ∧
    decode 0x00010012#32 = .error .unusedB ∧ decode 0x00000100#32 = .error .unusedA ∧
    decode 0x00010229#32 = .error .unusedB := by decide
theorem test_encode :
    encode (.split 3 5) = 0x00050328#32 ∧ encode (.ldsh 2 5) = 0x00050232#32 ∧ encode (.fetch 12) = 0x00000C12#32 := by
  decide

/-! ## System commands -/

/-- V74. -/
theorem test_nop : see (exec .nop State.reset) latch = some (0, 0) := by decide
/-- V76. -/
theorem test_errclr : see (exec .errclr latchedState) latch = some (0, 0) := by decide
/-- Example of R192: the data goes, the latch stays. -/
theorem test_zeroize :
    see (exec .zeroize { latchedState with sec := sixteen 0xFF, gfa := 3 }) (fun s => (s.sec, s.gfa, s.errcode)) =
      some (sixteen 0, 0, 0x07) := by decide +kernel

/-! ## The codec -/

/-- Example of R113. -/
theorem test_wclr : see (exec .wclr (withLast 0x7F5)) (fun s => (s.wcnt, s.w[11])) = some (0, 0) := by decide +kernel
/-- V90. -/
theorem test_lookup_about :
    see (exec .lookup (withRom { withWords [] 2 with wordin := 0x00000074756F6261 })) (fun s => (s.wcnt, s.w[2])) =
      some (3, 0x003) := by decide +kernel
/-- V91. -/
theorem test_lookup_thirteenth :
    see (exec .lookup (withRom (withLast 0))) latch = some (0x04, 0x00000011) := by decide +kernel
/-- V94. -/
theorem test_fetch_abandon :
    see (exec (.fetch 0) (withRom (withWords [0] 1))) (fun s => (portRead 0x00A s, portRead 0x00B s)) =
      some (0x6E616261, 0x006E6F64) := by decide +kernel
/-- V96. -/
theorem test_fetch_past_end : see (exec (.fetch 12) (withLast 0)) latch = some (0x11, 0x00000C12) := by decide +kernel
/-- V1. -/
theorem test_pack_ramp :
    see (exec .pack (withCodec ramp 16)) (fun s => (s.wcnt, s.w.toList)) =
      some (12, [0x000, 0x040, 0x406, 0x040, 0x283, 0x01C, 0x101, 0x10A, 0x058, 0x303, 0x21C, 0x0F0]) := by decide +kernel
/-- V7. -/
theorem test_pack_four :
    see (exec .pack (withCodec (chunkOfList [0x12, 0x34, 0x56, 0x78]) 4)) (fun s => (s.wcnt, s.w.toList.take 4)) =
      some (3, [0x091, 0x515, 0x4F0, 0]) := by decide +kernel
/-- V11. -/
theorem test_unpack_three :
    see (exec .unpack (withWords [0x123, 0x456, 0x789] 3)) (fun s => (s.blen, s.cb.toList.take 5)) =
      some (4, [0x24, 0x71, 0x5B, 0xC4, 0]) := by decide +kernel
/-- V10: the index field does not reach CB. -/
theorem test_unpack_ones :
    see (exec .unpack (withWords (List.replicate 12 0x7FF) 12)) (fun s => (s.blen, s.cb)) = some (16, sixteen 0xFF) := by
  decide +kernel

/-! ## The share-index field -/

/-- V13. -/
theorem test_embed : see (exec (.embed 1) (withLast 0x7FF)) (fun s => s.w[11]) = some 0x7F1 := by decide +kernel
/-- V17 and V18. -/
theorem test_embed_refused :
    see (exec (.embed 16) (withLast 0)) latch = some (0x11, 0x00001018) ∧
    see (exec (.embed 5) (withWords [] 11)) latch = some (0x04, 0x00000518) := by decide +kernel
/-- V14. -/
theorem test_extract : see (exec .extract (withLast 0x7FF)) (fun s => (s.idxr, s.w[11])) = some (15, 0x7F0) := by
  decide +kernel
/-- V19. -/
theorem test_extract_refused : see (exec .extract State.reset) latch = some (0x04, 0x00000019) := by decide +kernel

/-! ## The field -/

/-- V30. -/
theorem test_fadd : see (exec .fadd { State.reset with gfa := 0x57, gfb := 0x83 }) (fun s => s.gfr) = some 0xD4 := by
  decide +kernel
/-- V31, and V32 to V39 on the pure function. -/
theorem test_fmul :
    see (exec .fmul { State.reset with gfa := 0x57, gfb := 0x83 }) (fun s => s.gfr) = some 0xC1 ∧
    [gfmul 0x11B 0x57 0x13, gfmul 0x11B 0x02 0x80, gfmul 0x11B 0x80 0x02, gfmul 0x11B 0xFF 0xFF, gfmul 0x11B 0xB6 0x53] =
      [0xFE, 0x1B, 0x1B, 0x13, 0x36] := by decide +kernel
/-- V41. -/
theorem test_finv : see (exec .finv { State.reset with gfa := 0x53 }) (fun s => s.gfr) = some 0xCA := by decide +kernel
/-- V46. -/
theorem test_finv_zero :
    see (exec .finv { State.reset with gfr := 5 }) (fun s => (latch s, s.gfr)) = some ((0x11, 0x00000022), 5) := by
  decide +kernel

/-! ## Shamir -/

/-- V20: the first bytes of the five shares, and slot 5. -/
theorem test_split :
    see (exec (.split 3 5) (withDraws ((List.range 32).map fun i => BitVec.ofNat 8 (i + 1)) State.reset))
        (fun s => ((s.sh.take 6).map fun x => (x.valid, x.idx, x.pay.toList.take 2), s.rngQueue)) =
      some ([(true, 1, [0x03, 0x07]), (true, 2, [0x0A, 0x16]), (true, 3, [0x09, 0x11]), (true, 4, [0x24, 0x4C]),
             (true, 5, [0x27, 0x4B]), (false, 0, [0, 0])], []) := by decide +kernel
/-- V52: n above NSLOT. -/
theorem test_split_refused : see (exec (.split 2 16) State.reset) latch = some (0x11, 0x00100228) := by decide +kernel
/-- V28. -/
theorem test_combine :
    see (exec (.combine 2) (withSlots [share 1 0x10, share 2 0x20])) (fun s => (s.errcode, s.sec[0])) = some (0, 0x00) ∧
    see (exec (.combine 2) (withSlots [share 1 0xFF, share 2 0x00])) (fun s => (s.errcode, s.sec[15])) = some (0, 0xAA) := by
  decide +kernel
/-- V26 (too few), V27 (equal indices), V53 and V55 (t, index 0). -/
theorem test_combine_refused :
    see (exec (.combine 3) (withSlots [share 1 3, Slot.empty, share 3 9])) latch = some (0x07, 0x00000329) ∧
    see (exec (.combine 3) (withSlots [share 4 0, share 4 1])) latch = some (0x08, 0x00000329) ∧
    see (exec (.combine 1) State.reset) latch = some (0x11, 0x00000129) ∧
    see (exec (.combine 2) (withSlots [share 0 0, share 0 0])) latch = some (0x11, 0x00000229) := by decide +kernel
/-- The Lagrange weights of the indices 1, 3, 5 (95_test_vectors.md section 2.3). -/
theorem test_lagrange : (List.range 3).map (lagrange0 0x11B [1, 3, 5]) = [0xAF, 0x46, 0xE8] := by decide +kernel

/-! ## Transfer -/

/-- V60, V61. -/
theorem test_ldsec :
    see (exec .ldsec (withCodec ramp 16)) (fun s => s.sec) = some ramp ∧
    see (exec .ldsec State.reset) latch = some (0x05, 0x00000030) := by decide +kernel
/-- V62. -/
theorem test_stsec :
    see (exec .stsec { State.reset with sec := sixteen 0xFF }) (fun s => (s.cb, s.blen)) = some (sixteen 0xFF, 16) := by
  decide +kernel
/-- V63. -/
theorem test_ldsh :
    see (exec (.ldsh 2 5) (withCodec (sixteen 0xAA) 16)) (fun s => (s.slot 2, portRead 0x110 s)) =
      some (⟨true, 5, sixteen 0xAA⟩, 0x00000105) := by decide +kernel
/-- V64, V65, V66. -/
theorem test_ldsh_refused :
    see (exec (.ldsh 15 1) (withCodec ramp 16)) latch = some (0x11, 0x00010F32) ∧
    see (exec (.ldsh 0 0) (withCodec ramp 16)) latch = some (0x11, 0x00000032) ∧
    see (exec (.ldsh 0 1) State.reset) latch = some (0x05, 0x00010032) := by decide +kernel
/-- A valid slot, and V67. -/
theorem test_stsh :
    see (exec (.stsh 0) (withSlots [share 1 0x0A])) (fun s => (s.cb, s.blen)) = some (sixteen 0x0A, 16) ∧
    see (exec (.stsh 0) State.reset) latch = some (0x11, 0x00000033) := by decide +kernel

/-! ## The port and the step -/

/-- V70, V71, V72, V73: illegal words. -/
theorem test_illegal_words :
    see (runCommand 0x01000000 State.reset) latch = some (0x10, 0x01000000) ∧
    see (runCommand 0x00000003 State.reset) latch = some (0x10, 0x00000003) ∧
    see (runCommand 0x00000100 State.reset) latch = some (0x10, 0x00000100) ∧
    see (runCommand 0x00010012 State.reset) latch = some (0x10, 0x00010012) := by decide +kernel
/-- V75: dropped while latched. -/
theorem test_dropped_while_latched :
    see (runCommand 0x00000031 latchedState) (fun s => (latch s, s.blen)) = some ((0x07, 0x00000329), 0) := by
  decide +kernel
/-- V77, V78. -/
theorem test_counts_keep_legal :
    see (portWrite 0x005 13 State.reset) (fun s => s.wcnt) = some 0 ∧
    see (portWrite 0x006 17 State.reset) (fun s => s.blen) = some 0 ∧
    see (portWrite 0x006 16 State.reset) (fun s => s.blen) = some 16 := by decide +kernel
/-- V79, V80. -/
theorem test_fields_store_own_bits :
    see (portWrite 0x023 0xFFFFFFFF State.reset) (portRead 0x023) = some 0x000007FF ∧
    see (portWrite 0x100 0xFFFFFFFF State.reset) (portRead 0x100) = some 0x000001FF := by decide +kernel
/-- V81, V82. -/
theorem test_reads :
    portRead 0x007 State.reset = 0 ∧ portRead 0x02C State.reset = 0 ∧ portRead 0xFFF State.reset = 0 ∧
    portRead 0x000 State.reset = 0 ∧ portRead 0x003 State.reset = 0x00011B0F := by decide +kernel
/-- V83. -/
theorem test_read_only_registers :
    ([0x001, 0x002, 0x003, 0x004, 0x00A, 0x00E].all fun r =>
      see (portWrite r 0xFFFFFFFF State.reset) (portRead r) == some (portRead r State.reset)) = true := by decide +kernel
/-- R69: SHPAY0 of V23 as registers. -/
theorem test_little_endian :
    chunkReg (chunkOfList [0xA0, 0xB0, 0x80, 0x90, 0xE0, 0xF0, 0xC0, 0xD0]) 0 = 0x9080B0A0 ∧
    chunkReg (chunkOfList [0xA0, 0xB0, 0x80, 0x90, 0xE0, 0xF0, 0xC0, 0xD0]) 1 = 0xD0C0F0E0 ∧
    (setChunkReg (sixteen 0) 1 0xD0C0F0E0).toList.take 9 = [0, 0, 0, 0, 0xE0, 0xF0, 0xC0, 0xD0, 0] := by decide +kernel
/-- The number of the last slot register with NSLOT = 255 (R61). -/
theorem test_last_slot_register : regAtNumber 255 0x8F7 = some (.shpay 254 3) ∧ regAtNumber 15 0x178 = none := by decide

/-- A step runs the command whose word is placed at the port (R64), for words with and without operands. -/
theorem test_step_runs_placed_words :
    ([0x00, 0x01, 0x02, 0x10, 0x11, 0x12, 0x13, 0x14, 0x18, 0x19, 0x20, 0x21, 0x22, 0x28, 0x29, 0x30, 0x31, 0x32, 0x33].all
      fun w => (decodeTableWord 32 w).isSome && completes (step (State.reset.withFetchWord 32 w))) = true := by decide +kernel
/-- A read is answered and a reset applied (R62, R250). -/
theorem test_step_read_and_reset :
    see (step { latchedState with port := [.read 0x001, .reset] }) (fun s => (s.answers, s.port)) = some ([0x07], [.reset]) ∧
    see (step { latchedState with port := [.reset] }) latch = some (0, 0) := by decide +kernel
/-- A SPLIT waits for ever at a silent source (R70), until a reset abandons it (R250). -/
theorem test_silent_source :
    completes (step ({ State.reset with rngAnswers := false }.issue 0x00030228)) = false ∧
    completes (step { State.reset with rngAnswers := false, port := [.write 0x000 0x00030228, .reset] }) = true := by
  decide +kernel

/-- R207: 13 words are no whole chunks, neither as a plaintext mnemonic nor as a share; 24 words are two. -/
theorem test_cut_mnemonic :
    cutMnemonic (List.replicate 13 ()) = .error (.code 0x04) ∧
    (cutMnemonic (List.range 24)).toOption = some [List.range 12, (List.range 12).map (· + 12)] := by decide

/-! ## Witnesses: a state and operands that meet the hypotheses of each statement of Certificates/Slice0/Obligations.lean -/

/-- A legal ROM image: 2048 different words of three characters. -/
def legalRom : Rom :=
  Vector.ofFn fun i => BitVec.ofNat 64 (0x616161 + i.val % 16 + 256 * (i.val / 16 % 16) + 65536 * (i.val / 256))

/-- The three characters of an entry, each a letter. -/
theorem legalRom_chars (i : Fin 2048) : ∃ a b d, (97 ≤ a ∧ a < 113) ∧ (97 ≤ b ∧ b < 113) ∧ (97 ≤ d ∧ d < 105) ∧
    i.val = a - 97 + 16 * (b - 97) + 256 * (d - 97) ∧ (legalRom[i]).toNat = a + 256 * b + 65536 * d := by
  refine ⟨97 + i.val % 16, 97 + i.val / 16 % 16, 97 + i.val / 256, by omega, by omega, by omega, by omega, ?_⟩
  simp only [legalRom, Fin.getElem_fin, Vector.getElem_ofFn, BitVec.toNat_ofNat]
  omega

theorem charAt_toNat (x : Chars) (c : Nat) : (charAt x c).toNat = x.toNat / 2 ^ (8 * c) % 256 := by
  simp [charAt, Nat.shiftRight_eq_div_pow]

theorem charAt_eq_zero (x : Chars) (c : Nat) : charAt x c = 0 ↔ x.toNat / 2 ^ (8 * c) % 256 = 0 := by
  rw [← charAt_toNat]
  exact ⟨fun h => congrArg BitVec.toNat h, fun h => BitVec.eq_of_toNat_eq h⟩

theorem test_legal_rom : LegalRom legalRom := by
  refine ⟨fun i => ⟨fun h => ?_, fun c hc h => ?_⟩, fun i j h => ?_⟩
  · obtain ⟨a, b, d, ha, hb, hd, -, hn⟩ := legalRom_chars i
    rw [charAt_eq_zero, hn] at h
    omega
  · obtain ⟨a, b, d, ha, hb, hd, -, hn⟩ := legalRom_chars i
    rw [charAt_eq_zero, hn] at h ⊢
    interval_cases c <;> omega
  · obtain ⟨a, b, d, ha, hb, hd, hi, hn⟩ := legalRom_chars i
    obtain ⟨a', b', d', ha', hb', hd', hj, hn'⟩ := legalRom_chars j
    have := congrArg BitVec.toNat h
    rw [hn, hn'] at this
    exact Fin.ext (by omega)

/-- The state with the legal ROM. -/
def withLegalRom (s : State) : State := { s with rom := legalRom }

theorem test_witness_EncodeInvertsDecode : decode 0x00050328#32 = .ok (.split 3 5) := by decide
theorem test_witness_OpcodeRowsSelectTheirCommands :
    ∃ a ∈ opcodeTable, ∃ b ∈ opcodeTable, a.selects 0x00000B12 = true ∧ b.selects 0x00000B12 = true := by decide
theorem test_witness_IllegalWordRaisesIllegalCommand :
    (∀ row ∈ opcodeTable, row.selects 0x01000000 = false) ∧ (∀ row ∈ opcodeTable, row.selects 0x00000003 = false) ∧
    (∀ row ∈ opcodeTable, row.selects 0x00010012 = false) ∧ (∀ row ∈ opcodeTable, row.selects 0x00000100 = false) ∧
    State.reset.errcode = 0 ∧ latchedState.errcode ≠ 0 := by decide
theorem test_witness_StepRunsTheDecodedCommand :
    ∃ (s : State) (rest : List Event) (i : Instr), s.port = .write 0x000 0x00030228 :: rest ∧ decode 0x00030228 = .ok i ∧ (∃ t, exec i { s with port := rest } = .next t) ∧
      ∀ later, rest ≠ .reset :: later :=
  ⟨State.reset.issue 0x00030228, [], .split 2 3, rfl, rfl, ⟨_, rfl⟩, fun _ h => nomatch h⟩
theorem test_witness_StepRunsTheDecodedCommand_abandoned :
    ∃ (s : State) (later : List Event), s.port = [.write 0x000 0x00030228, .reset] ∧ decode 0x00030228 = .ok (.split 2 3) ∧
      [Event.reset] = .reset :: later ∧ exec (.split 2 3) { s with port := [.reset] } = .fault .rngSilent :=
  ⟨{ State.reset with rngAnswers := false, port := [.write 0x000 0x00030228, .reset] }, [], rfl, rfl, rfl, rfl⟩
theorem test_witness_StepServesEveryOtherEvent :
    ({ State.reset with port := [.read 0x001] } : State).port = .read 0x001 :: [] ∧
    (0x005#12 ≠ 0x000 ∧ ({ State.reset with port := [.write 0x005 12] } : State).port = .write 0x005 12 :: []) ∧
    ({ State.reset with port := [.reset] } : State).port = .reset :: [] ∧ State.reset.port = [] := by decide
theorem test_witness_EngineStepFollowsItsPseudocode :
    latchedState.errcode ≠ 0 ∧ State.reset.errcode = 0 ∧ (∀ row ∈ opcodeTable, row.selects 0x00000003 = false) ∧
    decode 0x00000B12 = .ok (.fetch 11) ∧ (∃ t, runCommand 0x00000B12 State.reset = .next t) :=
  ⟨by decide, by decide, by decide, by decide, _, rfl⟩
theorem test_witness_LatchedEngineDropsCommands :
    latchedState.errcode ≠ 0 ∧ 0x00000000#32 ≠ 0x00000001 ∧ 0x00000003#32 ≠ 0x00000002 ∧ 0x001#12 ≠ 0x000 ∧
    0x003#12 ≠ 0x001 ∧ 0x003#12 ≠ 0x002 := by decide
theorem test_witness_ErrorEntryIsPrecise :
    ∃ s t, s.errcode = 0 ∧ runCommand 0x00000022 s = .next t ∧ t.errcode ≠ 0 := ⟨State.reset, _, rfl, rfl, by decide⟩
theorem test_witness_CommandsRaiseOnlyTheirErrors :
    ∃ s t, s.errcode = 0 ∧ exec .finv s = .next t ∧ t.errcode ≠ 0 := ⟨State.reset, _, rfl, rfl, by decide⟩
theorem test_witness_FirstErrorIsKept :
    (∃ t, step (latchedState.issue 0x00000022) = .next t) ∧ (∃ t, step (latchedState.issue 0x00000001) = .next t) ∧
    (latchedState.issue 0x00000022).errcode ≠ 0 := ⟨⟨_, rfl⟩, ⟨_, rfl⟩, by decide⟩
theorem test_witness_EveryStepKeepsTheInvariants :
    (State.reset.issue 0x00000022).Inv ∧ ∃ t, step (State.reset.issue 0x00000022) = .next t :=
  ⟨⟨by decide, by decide, by decide, fun _ => rfl⟩, _, rfl⟩
theorem test_witness_NoStepChangesTheConfiguration : ∃ s t : State, step s = .next t := ⟨latchedState.issue 0x00000001, _, rfl⟩
theorem test_witness_ResetClearsEveryElement : ∃ s : State, s.errcode ≠ 0 ∧ s.port = .reset :: [] :=
  ⟨{ latchedState with port := [.reset] }, by decide, rfl⟩
theorem test_witness_CommandsWriteOnlyTheirElements :
    ∃ s t, exec (.embed 5) s = .next t ∧ ¬ Writes (.embed 5) s (.w 10) ∧ Elem.w 10 ≠ .errcode ∧ Elem.w 10 ≠ .errinfo ∧
      Instr.embed 5 ≠ .errclr ∧ t.errcode = s.errcode :=
  ⟨withLast 0x7F0, _, rfl, by simp [Writes], by simp, by simp, by simp, rfl⟩
theorem test_witness_CommandsReadOnlyTheirElements :
    ∃ a b a' b' : State, a ≠ b ∧ a.errcode = 0 ∧ b.errcode = 0 ∧ (∀ e, Reads .fadd a e → e.Same a b) ∧
      exec .fadd a = .next a' ∧ exec .fadd b = .next b' ∧ a'.errcode = 0 :=
  ⟨State.reset, { State.reset with gfr := 9 }, _, _, fun h => absurd (congrArg State.gfr h) (by decide), rfl, rfl,
    fun e h => by rcases h with rfl | rfl <;> rfl, rfl, rfl, rfl⟩
theorem test_witness_EveryCommandCompletes :
    ∀ t n, Instr.split 255 255 = .split t n → State.reset.CanDraw (16 * (t.toNat - 1)) := fun _ _ _ => .inl rfl
theorem test_witness_OnlySuccessfulSplitDraws :
    (∃ s t, s.errcode = 0 ∧ exec (.split 2 2) s = .next t) ∧
    ∃ s : State, s.errcode = 0 ∧ 2 ≤ (2 : Byte).toNat ∧ (2 : Byte).toNat ≤ (15 : Byte).toNat ∧ (15 : Byte).toNat ≤ s.nslot ∧
      ¬ s.CanDraw (16 * ((2 : Byte).toNat - 1)) :=
  ⟨⟨State.reset, _, rfl, rfl⟩,
   { withDraws (List.replicate 15 0) State.reset with rngAnswers := false }, rfl, by decide, by decide, by decide,
    by simp [State.CanDraw, withDraws]⟩
/-- The first and the last numbers of every gap of the register map, with NSLOT = 15 (R61). -/
theorem test_witness_UnmappedNumbersReadZeroAndIgnoreWrites :
    ∀ r ∈ [0x007#12, 0x00F#12, 0x018#12, 0x01F#12, 0x02C#12, 0x0FF#12, 0x101#12, 0x103#12, 0x178#12, 0xFFF#12],
      ∀ x : Reg, x.wellFormed State.reset.nslot = true → x.number ≠ r.toNat := by
  have h : State.reset.nslot = 15 := by decide
  rw [h]
  intro r hr x hx
  simp only [List.mem_cons, List.not_mem_nil, or_false] at hr
  rcases hr with rfl | rfl | rfl | rfl | rfl | rfl | rfl | rfl | rfl | rfl <;>
    cases x <;> simp [Reg.wellFormed, Reg.number] at hx ⊢ <;> omega
theorem test_witness_ReadAfterWriteReturnsTheFields :
    State.reset.regAt 0x005 = some .wcnt ∧ State.reset.regAt 0x006 = some .blen ∧ State.reset.regAt 0x177 = some (.shpay 14 3) ∧
    State.reset.regAt 0x170 = some (.shidx 14) ∧ State.reset.regAt 0x02B = some (.w 11) ∧
    State.reset.regAt 0x003 = some .cfg ∧ Reg.w 11 ≠ .cmd := by decide
theorem test_witness_HostWriteChangesOneRegister : 0x008#12 ≠ 0x000 ∧ 0x009#12 ≠ 0x008 := by decide
/-- 12 and 16 are written, 13, 17 and a number whose low bits are legal are not (R66). -/
theorem test_witness_CountsTakeLegalValuesOnly :
    (12#32).toNat ≤ 12 ∧ 12 < (13#32).toNat ∧ 12 < (0x10000000#32).toNat ∧ (16#32).toNat ≤ 16 ∧ 16 < (17#32).toNat := by decide
theorem test_witness_PortReadsDetermineTheState :
    ∃ s t : State, s ≠ t ∧ s.nslot ≤ 255 ∧ t.nslot ≤ 255 ∧ ∀ r, portRead r s = portRead r t :=
  ⟨State.reset, putPort [.reset] State.reset, fun h => by simpa [State.reset] using congrArg State.port h, by decide, by decide,
    fun r => (portRead_putPort r _ _).symm⟩
/-- Every statement about a command that asks for a clear latch and for nothing else. -/
theorem test_witness_latch_clear : State.reset.errcode = 0 := rfl
theorem test_witness_LookupAppendsTheLeastMatchingIndex :
    (∃ s : State, s.errcode = 0 ∧ s.wcnt.toNat ≤ 12 ∧ s.wcnt = 12) ∧
    (∃ s : State, s.errcode = 0 ∧ s.wcnt ≠ 12 ∧ ∀ i : Fin 2048, s.rom[i] ≠ s.wordin) ∧
    (∃ s : State, s.errcode = 0 ∧ s.wcnt.toNat ≤ 12 ∧ (11 : Fin 12).val = s.wcnt.toNat ∧ s.rom[(2047 : Fin 2048)] = s.wordin ∧
      ∀ i' : Fin 2048, i' < 2047 → s.rom[i'] ≠ s.wordin) := by
  refine ⟨⟨withLast 0, rfl, by decide, by decide⟩, ⟨withLegalRom State.reset, rfl, by decide, fun i h => ?_⟩,
    withLegalRom { withWords [] 11 with wordin := legalRom[2047] }, rfl, by decide, by decide, rfl, fun i hi h => ?_⟩
  · obtain ⟨a, b, d, ha, hb, hd, -, hn⟩ := legalRom_chars i
    have : (legalRom[i]).toNat = 0 := congrArg BitVec.toNat h
    omega
  · exact absurd (test_legal_rom.2 i 2047 h) (Fin.ne_of_lt hi)
theorem test_witness_FetchDeliversTheRomEntry :
    ∃ s : State, s.errcode = 0 ∧ (11 : Fin 12).val = (11 : Byte).toNat ∧ (11 : Byte).toNat < s.wcnt.toNat ∧
      s.wcnt.toNat ≤ (12 : Byte).toNat := ⟨withLast 0, by decide⟩
theorem test_witness_PackRegroupsTheByteBits :
    (withCodec ramp 16).errcode = 0 ∧ (withCodec ramp 16).blen.toNat ≤ 16 ∧ State.reset.blen.toNat ≤ 16 := by decide
theorem test_witness_UnpackRegroupsTheWordBits : (withLast 0).errcode = 0 ∧ (withLast 0).wcnt.toNat ≤ 12 := by decide
/-- The boundary lengths 3 and 16 of R118. -/
theorem test_witness_UnpackAfterPackRestoresTheBytes :
    (∃ s : State, s.errcode = 0 ∧ s.blen.toNat ≤ 16 ∧ s.blen.toNat ∈ [0, 1, 2, 4, 5, 6, 8, 9, 11, 12, 13, 15, 16]) ∧
    (∃ s : State, s.errcode = 0 ∧ s.blen.toNat ≤ 16 ∧ s.blen.toNat ∈ [3, 7, 10, 14]) :=
  ⟨⟨withCodec ramp 16, by decide⟩, ⟨withCodec ramp 3, by decide⟩⟩
theorem test_witness_PackAfterUnpackRestoresTheWords : (withLast 0x7FF).errcode = 0 ∧ (withLast 0x7FF).wcnt = 12 := by decide
theorem test_witness_EmbedOverwritesTheIndexField :
    (withLast 0).errcode = 0 ∧ (withLast 0).wcnt = 12 ∧ 1 ≤ (1 : Byte).toNat ∧ (15 : Byte).toNat ≤ 15 ∧
    ((0 : Byte).toNat = 0 ∨ 15 < (0 : Byte).toNat) ∧ ((16 : Byte).toNat = 0 ∨ 15 < (16 : Byte).toNat) ∧
    (withWords [] 11).wcnt ≠ 12 := by decide
theorem test_witness_ExtractReadsAndClearsTheIndexField :
    (withLast 0).errcode = 0 ∧ (withLast 0).wcnt = 12 ∧ State.reset.errcode = 0 ∧ State.reset.wcnt ≠ 12 := by decide
theorem test_witness_ExtractAfterEmbedReturnsTheIndex :
    ∃ s : State, s.errcode = 0 ∧ s.wcnt = 12 ∧ 1 ≤ (15 : Byte).toNat ∧ (15 : Byte).toNat ≤ 15 := ⟨withLast 0x7F3, by decide⟩
theorem test_witness_PayloadDoesNotDependOnTheIndexField :
    ∃ s u e x : State, s.errcode = 0 ∧ s.wcnt = 12 ∧ exec .unpack s = .next u ∧ 1 ≤ (1 : Byte).toNat ∧ (1 : Byte).toNat ≤ 15 ∧
      exec (.embed 1) s = .next e ∧ exec .extract s = .next x :=
  ⟨withLast 0x7F3, _, _, _, rfl, rfl, rfl, by decide, by decide, rfl, rfl⟩
theorem test_witness_FmulMultipliesModuloPoly :
    State.reset.errcode = 0 ∧ State.reset.poly.getLsbD 8 = true ∧
    ∃ fa fb fr fm, StandsFor State.reset.gfa fa ∧ StandsFor State.reset.gfb fb ∧
      StandsFor (gfmul State.reset.poly State.reset.gfa State.reset.gfb) fr ∧ StandsFor State.reset.poly fm :=
  ⟨rfl, by decide, _, _, _, _, standsFor_sum _, standsFor_sum _, standsFor_sum _, standsFor_sum _⟩
theorem test_witness_FinvGivesTheUniqueInverse :
    ({ State.reset with gfa := 0x53 } : State).errcode = 0 ∧ ({ State.reset with gfa := 0x53 } : State).gfa ≠ 0 ∧
    LegalPoly ({ State.reset with gfa := 0x53 } : State).poly ∧ State.reset.errcode = 0 ∧ State.reset.gfa = 0 := by decide
theorem test_witness_BytesFormAField :
    LegalPoly 0x1F9#9 ∧ (0xFF : Byte) ≠ 0 ∧ gfmul 0x1F9 0x00 0xFF = 0 := by decide +kernel
theorem test_witness_PolyevalIsTheSumOfPowers : (0x11B#9).getLsbD 8 = true := by decide
/-- The corners 2 ≤ t ≤ n ≤ NSLOT of R163, and each way to miss them. -/
theorem test_witness_SplitFillsTheSlots :
    State.reset.errcode = 0 ∧ (2 ≤ (15 : Byte).toNat ∧ (15 : Byte).toNat ≤ (15 : Byte).toNat ∧ (15 : Byte).toNat ≤ State.reset.nslot) ∧
    State.reset.CanDraw (16 * ((15 : Byte).toNat - 1)) ∧
    ¬ (2 ≤ (1 : Byte).toNat ∧ (1 : Byte).toNat ≤ (5 : Byte).toNat ∧ (5 : Byte).toNat ≤ State.reset.nslot) ∧
    ¬ (2 ≤ (3 : Byte).toNat ∧ (3 : Byte).toNat ≤ (2 : Byte).toNat ∧ (2 : Byte).toNat ≤ State.reset.nslot) ∧
    ¬ (2 ≤ (2 : Byte).toNat ∧ (2 : Byte).toNat ≤ (16 : Byte).toNat ∧ (16 : Byte).toNat ≤ State.reset.nslot) :=
  ⟨rfl, by decide, .inl rfl, by decide, by decide, by decide⟩
/-- One slot file for each outcome of R165. -/
theorem test_witness_CombineInterpolatesAllValidSlots :
    ¬ (2 ≤ (1 : Byte).toNat ∧ (1 : Byte).toNat ≤ State.reset.nslot) ∧ ¬ (2 ≤ (16 : Byte).toNat ∧ (16 : Byte).toNat ≤ State.reset.nslot) ∧
    (2 ≤ (2 : Byte).toNat ∧ (2 : Byte).toNat ≤ State.reset.nslot) ∧
    (0 : Byte) ∈ ((withSlots [share 0 1, share 0 2]).sh.filter (fun x => x.valid)).map (fun x => x.idx) ∧
    (∀ xs, xs = ((withSlots [share 4 1, share 4 2]).sh.filter (fun x => x.valid)).map (fun x => x.idx) →
      (0 : Byte) ∉ xs ∧ ¬ xs.Nodup) ∧
    (∀ xs, xs = ((withSlots [share 4 1]).sh.filter (fun x => x.valid)).map (fun x => x.idx) →
      (0 : Byte) ∉ xs ∧ xs.Nodup ∧ xs.length < (2 : Byte).toNat) ∧
    (∀ xs, xs = ((withSlots [share 4 1, share 255 2]).sh.filter (fun x => x.valid)).map (fun x => x.idx) →
      (0 : Byte) ∉ xs ∧ xs.Nodup ∧ (2 : Byte).toNat ≤ xs.length) := by
  refine ⟨by decide, by decide, by decide, by decide, ?_, ?_, ?_⟩ <;> rintro _ rfl <;> decide
theorem test_witness_CombineIgnoresTheSlotOrder :
    ∃ (s u : State) (sh' : List Slot), s.poly.getLsbD 8 = true ∧ s.errcode = 0 ∧ sh'.Perm s.sh ∧ sh' ≠ s.sh ∧
      exec (.combine 2) s = .next u :=
  ⟨withSlots [share 1 3, share 2 9], _, (withSlots [share 1 3, share 2 9]).sh.reverse, by decide, rfl, List.reverse_perm _,
    by decide +kernel, rfl⟩
/-- The state a command leaves, if it completes. -/
def nextOf (a : Answer) : State :=
  match a with
  | .next u => u
  | .fault _ => State.reset
  | .refused _ => State.reset

theorem next_of_completes {a : Answer} (h : completes a = true) : a = .next (nextOf a) := by
  cases a <;> first | rfl | cases h

/-- The state after a 2-of-3 split of the zero chunk with sixteen draws laid out. -/
def afterSplit : State := nextOf (exec (.split 2 3) (withDraws (List.replicate 16 7) State.reset))

/-- The same with one share removed. -/
def afterLoss : State := putSlot 1 { afterSplit.slot 1 with valid := false } afterSplit

theorem test_witness_CombineAfterSplitRecoversTheChunk :
    ∃ s u v : State, LegalPoly s.poly ∧ LegalNslot s.nslot ∧ s.errcode = 0 ∧ exec (.split 2 3) s = .next u ∧ u.errcode = 0 ∧
      v = { u with sh := v.sh, sec := v.sec } ∧ v.nslot = u.nslot ∧
      (∀ k, v.slot k = u.slot k ∨ v.slot k = { u.slot k with valid := false }) ∧
      (2 : Byte).toNat ≤ (v.sh.filter (fun x => x.valid)).length := by
  have hv : ∀ (x : Slot) (u : State), putSlot 1 x u = { u with sh := (putSlot 1 x u).sh, sec := (putSlot 1 x u).sec } :=
    fun _ _ => rfl
  refine ⟨withDraws (List.replicate 16 7) State.reset, afterSplit, afterLoss, by decide, by decide, rfl,
    next_of_completes (by decide +kernel), by decide +kernel, hv _ _, putSlot_nslot _ _ _, fun k => ?_, by decide +kernel⟩
  rw [afterLoss, putSlot_slot _ _ _ _ (by decide +kernel)]
  by_cases hk : k = 1
  · subst hk; exact .inr (if_pos rfl)
  · exact .inl (if_neg hk)
theorem test_witness_TooFewOrEqualSharesAreRefused :
    (∃ s : State, s.errcode = 0 ∧ 2 ≤ (2 : Byte).toNat ∧ (2 : Byte).toNat ≤ s.nslot ∧
      ((s.sh.filter (fun x => x.valid)).map (fun x => x.idx)).Nodup ∧ (∀ x ∈ s.sh, x.valid = true → x.idx ≠ 0) ∧
      (s.sh.filter (fun x => x.valid)).length = (2 : Byte).toNat - 1) ∧
    (∃ s : State, s.errcode = 0 ∧ 0 < 14 ∧ 14 < s.nslot ∧ (s.slot 0).valid = true ∧ (s.slot 14).valid = true ∧
      (s.slot 0).idx = (s.slot 14).idx ∧ ∀ x ∈ s.sh, x.valid = true → x.idx ≠ 0) :=
  ⟨⟨withSlots [share 1 3], by decide⟩, ⟨withSlots (share 4 3 :: List.replicate 13 Slot.empty ++ [share 4 5]), by decide⟩⟩
/-- t - 1 shares and no share at all, at threshold 3. -/
theorem test_witness_FewerThanThresholdSharesRevealNothing :
    LegalPoly 0x11B#9 ∧ 2 ≤ 3 ∧ 2 ≤ 3 - 1 ∧ 0 ≤ 3 - 1 ∧ Function.Injective (![1, 2] : Fin 2 → Byte) ∧
    (∀ j, (![1, 2] : Fin 2 → Byte) j ≠ 0) := by
  refine ⟨by decide, by decide, by decide, by decide, ?_, by decide⟩
  unfold Function.Injective
  decide
theorem test_witness_LanesAreIndependent :
    ∃ a b a' b' : State, a ≠ b ∧ a.errcode = 0 ∧ b.errcode = 0 ∧ a.poly = b.poly ∧ a.nslot = b.nslot ∧
      (∀ k, (a.slot k).valid = (b.slot k).valid ∧ (a.slot k).idx = (b.slot k).idx ∧ (a.slot k).pay[(0 : Fin 16)] = (b.slot k).pay[(0 : Fin 16)]) ∧
      exec (.combine 2) a = .next a' ∧ exec (.combine 2) b = .next b' ∧ a'.errcode = 0 := by
  refine ⟨withSlots [share 1 3, share 2 9], withSlots [⟨true, 1, (sixteen 3).set 1 4⟩, share 2 9], _, _,
    fun h => absurd (congrArg (fun s => (s.slot 0).pay[1]) h) (by decide +kernel), rfl, rfl, rfl, rfl, fun k => ?_, rfl, rfl, rfl⟩
  match k with
  | 0 => decide +kernel
  | 1 => decide +kernel
  | k + 2 => exact ⟨rfl, rfl, rfl⟩
theorem test_witness_LanesAreIndependent_split :
    ∃ a b a' b' : State, a ≠ b ∧ a.errcode = 0 ∧ b.errcode = 0 ∧ a.poly = b.poly ∧ a.nslot = b.nslot ∧
      16 * ((2 : Byte).toNat - 1) ≤ a.rngQueue.length ∧ 16 * ((2 : Byte).toNat - 1) ≤ b.rngQueue.length ∧
      a.sec[(0 : Fin 16)] = b.sec[(0 : Fin 16)] ∧
      (∀ m, m < (2 : Byte).toNat - 1 → a.rngQueue[((2 : Byte).toNat - 1) * (0 : Fin 16).val + m]? =
        b.rngQueue[((2 : Byte).toNat - 1) * (0 : Fin 16).val + m]?) ∧
      exec (.split 2 3) a = .next a' ∧ exec (.split 2 3) b = .next b' ∧ a'.errcode = 0 :=
  ⟨withDraws (List.replicate 16 7) State.reset, withDraws (7 :: List.replicate 15 8) State.reset, _, _,
    fun h => absurd (congrArg State.rngQueue h) (by decide), rfl, rfl, rfl, rfl, by decide, by decide, rfl, by decide, rfl, rfl, rfl⟩
theorem test_witness_LdsecAndStsecMoveTheSecretChunk :
    (withCodec ramp 16).errcode = 0 ∧ (withCodec ramp 16).blen = 16 ∧ (withCodec ramp 15).blen ≠ 16 := by decide
/-- The last slot, and each refusal of R183. -/
theorem test_witness_LdshLoadsOneSlot :
    (withCodec ramp 16).errcode = 0 ∧ (14 : Byte).toNat < (withCodec ramp 16).nslot ∧ (255 : Byte) ≠ 0 ∧ (withCodec ramp 16).blen = 16 ∧
    (withCodec ramp 16).nslot ≤ (15 : Byte).toNat ∧ (withCodec ramp 15).blen ≠ 16 := by decide
theorem test_witness_StshStoresAValidSlot :
    (withSlots [share 1 2]).errcode = 0 ∧ (0 : Byte).toNat < (withSlots [share 1 2]).nslot ∧
    ((withSlots [share 1 2]).slot (0 : Byte).toNat).valid = true ∧ (withSlots [share 1 2]).nslot ≤ (15 : Byte).toNat ∧
    ((withSlots [share 1 2]).slot (1 : Byte).toNat).valid = false := by decide
theorem test_witness_HostSequencesAreRunsOfTheMachine : ∃ s t a, encodeWords.run s = .next (t, a) := ⟨State.reset, _, _, rfl⟩
theorem test_witness_DecodingTheEncodedWordsRestoresTheChunk :
    ∃ s s' : State, LegalRom s.rom ∧ s'.rom = s.rom ∧ s.errcode = 0 ∧ s'.errcode = 0 ∧ s.blen = 16 :=
  ⟨withLegalRom (withCodec ramp 16), withLegalRom State.reset, test_legal_rom, rfl, rfl, rfl, rfl⟩
theorem test_witness_ShareMnemonicCarriesTheShare :
    ∃ s s' : State, LegalRom s.rom ∧ s'.rom = s.rom ∧ s.errcode = 0 ∧ s'.errcode = 0 ∧ s.nslot ≤ 255 ∧ (0 : Byte).toNat < s.nslot ∧
      (14 : Byte).toNat < s'.nslot ∧ s'.nslot ≤ 255 ∧ (s.slot (0 : Byte).toNat).valid = true ∧
      1 ≤ (s.slot (0 : Byte).toNat).idx.toNat ∧ (s.slot (0 : Byte).toNat).idx.toNat ≤ 15 :=
  ⟨withLegalRom (withSlots [share 15 0xAA]), withLegalRom State.reset, test_legal_rom, rfl, rfl, rfl, by decide, by decide, by decide,
    by decide, by decide, by decide, by decide⟩
theorem test_witness_CombineSecretInvertsSplitSecret :
    ∃ (s s' : State) (secret : List Byte) (ks : List Nat), LegalPoly s.poly ∧ s'.poly = s.poly ∧ LegalNslot s.nslot ∧ LegalNslot s'.nslot ∧
      s.errcode = 0 ∧ s'.errcode = 0 ∧ s.rngAnswers = true ∧ 2 ≤ (2 : Byte).toNat ∧ (2 : Byte).toNat ≤ (3 : Byte).toNat ∧
      (3 : Byte).toNat ≤ s.nslot ∧ secret.length = 32 ∧ secret.length % 16 = 0 ∧
      ks.Nodup ∧ (∀ k ∈ ks, k < (3 : Byte).toNat) ∧ (2 : Byte).toNat ≤ ks.length ∧ ks.length ≤ s'.nslot :=
  ⟨State.reset, State.reset, List.replicate 32 0x5A, [2, 0], by decide, rfl, by decide, by decide, rfl, rfl, rfl, by decide, by decide,
    by decide, by decide, by decide, by decide, by decide, by decide, by decide⟩

end Sys2Proof.Tests
end

section
/-!
SUPPORT. The port shows the whole state: what a read of each register tells about the element behind it (spec/20_memory.md
rules R61, R62 and R69, spec/10_state.md rule R31).
-/

namespace Sys2Proof.Machine

/-- The number of a register of a legal NSLOT fits the 12-bit register number of the port (R60, R61). -/
theorem number_lt_of_wellFormed {n : Nat} {x : Reg} (hn : n ≤ 255) (hx : x.wellFormed n = true) :
    x.number < 2 ^ 12 := by
  cases x <;> simp only [Reg.wellFormed, decide_eq_true_eq] at hx <;> simp only [Reg.number] <;> omega

/-- The register number of a register that exists reaches it (R61). -/
theorem State.regAt_regNum {s : State} {x : Reg} (hs : s.nslot ≤ 255) (hx : x.wellFormed s.nslot = true) :
    s.regAt (regNum x) = some x := by
  rw [State.regAt, regNum, BitVec.toNat_ofNat, Nat.mod_eq_of_lt (number_lt_of_wellFormed hs hx)]
  exact regAtNumber_eq_some.mpr ⟨hx, rfl⟩

/-- A port read at the number of a register that exists returns the register's value (R62). -/
theorem portRead_regNum {s : State} {x : Reg} (hs : s.nslot ≤ 255) (hx : x.wellFormed s.nslot = true) :
    portRead (regNum x) s = readReg s x := by
  rw [portRead, State.regAt_regNum hs hx]

/-- Bit vectors put side by side are equal only part by part. -/
theorem append_inj {m n : Nat} {x x' : BitVec m} {y y' : BitVec n} (h : x ++ y = x' ++ y') : x = x' ∧ y = y' :=
  ⟨by simpa only [BitVec.extractLsb'_append_eq_left] using congrArg (BitVec.extractLsb' n m) h,
   by simpa only [BitVec.extractLsb'_append_eq_right] using congrArg (BitVec.extractLsb' 0 n) h⟩

/-- CFG shows POLY and a legal NSLOT (R31). -/
theorem cfgReg_inj {s t : State} (hs : s.nslot ≤ 255) (ht : t.nslot ≤ 255) (h : cfgReg s = cfgReg t) :
    s.nslot = t.nslot ∧ s.poly = t.poly := by
  obtain ⟨hhi, hn⟩ := append_inj h
  obtain ⟨-, hp⟩ := append_inj hhi
  have hmod := congrArg BitVec.toNat hn
  rw [BitVec.toNat_ofNat, BitVec.toNat_ofNat] at hmod
  exact ⟨by omega, hp⟩

/-- SHIDXk shows the valid bit and the index of slot k (R61). -/
theorem shidxReg_inj {x y : Slot} (h : shidxReg x = shidxReg y) : x.valid = y.valid ∧ x.idx = y.idx := by
  obtain ⟨hhi, hi⟩ := append_inj h
  obtain ⟨-, hv⟩ := append_inj hhi
  exact ⟨by simpa using congrArg (BitVec.getLsbD · 0) hv, hi⟩

/-- The four registers of a buffer show its sixteen bytes (R69). -/
theorem chunk_eq_of_chunkReg {x y : Chunk} (h : ∀ q, chunkReg x q = chunkReg y q) : x = y := by
  have hq : ∀ q : Fin 4, x[4 * q.val] = y[4 * q.val] ∧ x[4 * q.val + 1] = y[4 * q.val + 1] ∧
      x[4 * q.val + 2] = y[4 * q.val + 2] ∧ x[4 * q.val + 3] = y[4 * q.val + 3] := by
    intro q
    obtain ⟨h321, h0⟩ := append_inj (h q)
    obtain ⟨h32, h1⟩ := append_inj h321
    obtain ⟨h3, h2⟩ := append_inj h32
    exact ⟨h0, h1, h2, h3⟩
  refine Vector.ext fun p hp => ?_
  obtain ⟨q, i, hi, rfl⟩ : ∃ q i, i < 4 ∧ p = 4 * q + i := ⟨p / 4, p % 4, by omega, by omega⟩
  obtain ⟨h0, h1, h2, h3⟩ := hq ⟨q, by omega⟩
  interval_cases i
  · exact h0
  · exact h1
  · exact h2
  · exact h3

/-- The two halves of a character register show it whole (R69). -/
theorem chars_eq_of_halves {x y : Chars} (hlo : charsLo x = charsLo y) (hhi : charsHi x = charsHi y) : x = y := by
  rw [← charsOfHalves_chars x, hlo, hhi, charsOfHalves_chars]

/-- A field narrower than its register is shown whole (R62). -/
theorem setWidth_inj_of_le {n w : Nat} (hn : n ≤ w) {x y : BitVec n} (h : x.setWidth w = y.setWidth w) : x = y := by
  have hback := congrArg (BitVec.setWidth n) h
  rwa [BitVec.setWidth_setWidth_of_le x hn, BitVec.setWidth_setWidth_of_le y hn, BitVec.setWidth_eq,
    BitVec.setWidth_eq] at hback

/-- Slots that read the same at every slot number are the same slot file. -/
theorem State.sh_eq_of_slot {s t : State} (hn : s.nslot = t.nslot) (h : ∀ k, k < s.nslot → s.slot k = t.slot k) :
    s.sh = t.sh := by
  refine List.ext_getElem hn fun k hs ht => ?_
  have hk := h k hs
  rwa [State.slot, State.slot, List.getD_eq_getElem _ _ hs, List.getD_eq_getElem _ _ ht] at hk

section
variable {s t : State} (hs : s.nslot ≤ 255) (ht : t.nslot ≤ 255) (h : ∀ r, portRead r s = portRead r t)
include hs ht h

/-- Equal reads at every number show the same NSLOT and POLY. -/
theorem nslot_poly_eq_of_portRead : s.nslot = t.nslot ∧ s.poly = t.poly := by
  have hcfg := h (regNum .cfg)
  rw [portRead_regNum hs rfl, portRead_regNum ht rfl] at hcfg
  exact cfgReg_inj hs ht hcfg

/-- Equal reads at every number are equal values of every register that exists. -/
theorem readReg_eq_of_portRead {x : Reg} (hx : x.wellFormed s.nslot = true) : readReg s x = readReg t x := by
  have hn := (nslot_poly_eq_of_portRead hs ht h).1
  rw [← portRead_regNum hs hx, h, portRead_regNum ht (hn ▸ hx)]

/-- Equal reads at every number show the same slot file. -/
theorem sh_eq_of_portRead : s.sh = t.sh := by
  refine State.sh_eq_of_slot (nslot_poly_eq_of_portRead hs ht h).1 fun k hk => ?_
  have hw : decide (k < s.nslot) = true := decide_eq_true hk
  obtain ⟨hv, hi⟩ := shidxReg_inj (readReg_eq_of_portRead hs ht h (x := .shidx k) hw)
  exact Slot.ext hv hi (chunk_eq_of_chunkReg fun q => readReg_eq_of_portRead hs ht h (x := .shpay k q) hw)

end

/-- Settles O27: each element is read off the registers that show it. -/
theorem portReadsDetermineTheState : Obligations.PortReadsDetermineTheState := by
  intro s t hs ht h
  have hreg : ∀ x : Reg, x.wellFormed s.nslot = true → readReg t x = readReg s x :=
    fun x hx => (readReg_eq_of_portRead hs ht h hx).symm
  apply State.ext
  case sec => exact chunk_eq_of_chunkReg fun q => hreg (.sec q) rfl
  case sh => exact (sh_eq_of_portRead hs ht h).symm
  case cb => exact chunk_eq_of_chunkReg fun q => hreg (.cb q) rfl
  case w => exact Vector.ext fun j hj => setWidth_inj_of_le (by decide) (hreg (.w ⟨j, hj⟩) rfl)
  case wordin => exact chars_eq_of_halves (hreg .wordinLo rfl) (hreg .wordinHi rfl)
  case wordout => exact chars_eq_of_halves (hreg .wordoutLo rfl) (hreg .wordoutHi rfl)
  case errinfo => exact hreg .errinfo rfl
  case poly => exact (nslot_poly_eq_of_portRead hs ht h).2.symm
  case blen => exact setWidth_inj_of_le (by decide) (hreg .blen rfl)
  case wcnt => exact setWidth_inj_of_le (by decide) (hreg .wcnt rfl)
  case idxr => exact setWidth_inj_of_le (by decide) (hreg .idxr rfl)
  case gfa => exact setWidth_inj_of_le (by decide) (hreg .gfa rfl)
  case gfb => exact setWidth_inj_of_le (by decide) (hreg .gfb rfl)
  case gfr => exact setWidth_inj_of_le (by decide) (hreg .gfr rfl)
  case errcode => exact setWidth_inj_of_le (by decide) (hreg .errcode rfl)
  all_goals rfl

end Sys2Proof.Machine
end

section
/-!
SUPPORT. A host sequence is a run of the machine: stepping through the transactions a script issues does what performing the
script does (spec/00_scope.md rule R7, spec/20_memory.md rule R76).
-/

namespace Sys2Proof.Machine

/-- One more step of a run: the machine's step, then the rest of the run. -/
theorem run_succ_of_step (M : Host.Core) {s s' : M.State} (k : Nat) (h : M.step s = .next s') :
    M.run (k + 1) s = M.run k s' := by
  rw [Host.Core.run, h]

/-- The same for the SSCE, whose step is `step`. -/
theorem core_run_succ_of_step {s s' : State} (k : Nat) (h : step s = .next s') :
    Host.Core.run core (k + 1) s = Host.Core.run core k s' :=
  run_succ_of_step core (s := s) (s' := s') k h

/-- A read first at the port is one step, which records the answer (R62). -/
theorem step_of_read (r : RegNum) (p : List Event) (s : State) :
    step (putPort (.read r :: p) s) = .next (putPort p (addAnswer (portRead r s) s)) := by
  change Host.Outcome.next (addAnswer (portRead r (putPort p s)) (putPort p s)) = _
  rw [portRead_putPort]
  rfl

/-- A sequence whose first transaction is a write runs to its end only through the state that write leaves. -/
theorem Script.run_wr_next {α : Type} {r : Reg} {v : Reg32} {k : Script α} {s t : State} {a : α}
    (h : (Script.wr r v k).run s = .next (t, a)) :
    ∃ s', portWrite (regNum r) v s = .next s' ∧ k.run s' = .next (t, a) := by
  rw [Script.run] at h
  split at h
  · next s' hw => exact ⟨s', hw, h⟩
  · cases h
  · cases h

/-- The transactions of a sequence that begins with a completing write: that write, then those of the rest. -/
theorem Script.events_wr {α : Type} {r : Reg} {v : Reg32} {s s' : State} (k : Script α)
    (h : portWrite (regNum r) v s = .next s') :
    (Script.wr r v k).events s = .write (regNum r) v :: k.events s' := by
  rw [Script.events, h]

/-- Stepping the machine through the transactions of a completed sequence ends where the sequence ends. -/
theorem Script.core_run_events {α : Type} (c : Script α) {s t : State} {a : α} (rest : List Event)
    (h : c.run s = .next (t, a)) :
    Host.Core.run core (c.events s).length (putPort (c.events s ++ rest) s) = .next (putPort rest t) := by
  induction c generalizing s with
  | done b => cases h; rfl
  | rd r k ih =>
    exact (core_run_succ_of_step _ (step_of_read (regNum r) _ s)).trans (ih _ h)
  | wr r v k ih =>
    obtain ⟨s', hw, hk⟩ := Script.run_wr_next h
    rw [Script.events_wr k hw]
    exact (core_run_succ_of_step _ (step_of_portWrite (k.events s' ++ rest) hw)).trans (ih hk)

/-- Settles O57, by induction on the script: each of its transactions is one step. -/
theorem hostSequencesAreRunsOfTheMachine : Obligations.HostSequencesAreRunsOfTheMachine :=
  fun _ c _ _ _ rest h => c.core_run_events rest h

end Sys2Proof.Machine
end

section
/-!
SUPPORT. The frame of every command and what it reads (spec/10_state.md rule R32), element by element of the table's columns.
-/

namespace Sys2Proof.Machine

/-! ### What an update leaves the same -/

/-- Every state agrees with itself on every element. -/
theorem Elem.Same.rfl {e : Elem} {s : State} : e.Same s s := by
  cases e <;> simp [Elem.Same]

/-- Agreement passes on from state to state. -/
theorem Elem.Same.trans {e : Elem} {s t u : State} (h : e.Same s t) (h' : e.Same t u) : e.Same s u := by
  cases e
  case rng =>
    obtain ⟨hq, hd, ha⟩ := h
    obtain ⟨hq', hd', ha'⟩ := h'
    exact ⟨hq.trans hq', hd.trans hd', ha.trans ha'⟩
  all_goals exact Eq.trans h h'

theorem latchError_same {e : Elem} (x : Err) (cw : Reg32) (s : State) (hc : e ≠ .errcode) (hi : e ≠ .errinfo) :
    e.Same s (latchError x cw s) := by
  cases e
  case errcode => exact absurd rfl hc
  case errinfo => exact absurd rfl hi
  all_goals simp [Elem.Same]

theorem clearLatch_same {e : Elem} (s : State) (hc : e ≠ .errcode) (hi : e ≠ .errinfo) : e.Same s (clearLatch s) := by
  cases e
  case errcode => exact absurd rfl hc
  case errinfo => exact absurd rfl hi
  all_goals simp [Elem.Same]

theorem putW_same {e : Elem} (ws : WordBuf) (s : State) (hw : ∀ j : Fin 12, e = .w j → ws[j] = s.w[j]) :
    e.Same s (putW ws s) := by
  cases e
  case w j => exact (hw j rfl).symm
  all_goals simp [Elem.Same]

theorem putWords_same {e : Elem} (ws : WordBuf) (n : BitVec 4) (s : State) (hw : ∀ j : Fin 12, e = .w j → ws[j] = s.w[j])
    (hn : e ≠ .wcnt) : e.Same s (putWords ws n s) := by
  cases e
  case w j => exact (hw j rfl).symm
  case wcnt => exact absurd rfl hn
  all_goals simp [Elem.Same]

theorem putCodec_same {e : Elem} (c : Chunk) (n : BitVec 5) (s : State) (hc : ∀ p, e ≠ .cb p) (hn : e ≠ .blen) :
    e.Same s (putCodec c n s) := by
  cases e
  case cb p => exact absurd rfl (hc p)
  case blen => exact absurd rfl hn
  all_goals simp [Elem.Same]

theorem putSec_same {e : Elem} (c : Chunk) (s : State) (hc : ∀ p, e ≠ .sec p) : e.Same s (putSec c s) := by
  cases e
  case sec p => exact absurd rfl (hc p)
  all_goals simp [Elem.Same]

theorem putSlot_same {e : Elem} {k : Nat} (x : Slot) {s : State} (hk : k < s.nslot) (he : e ≠ .slot k) :
    e.Same s (putSlot k x s) := by
  cases e
  case slot m => exact ((putSlot_slot k x s m hk).trans (if_neg fun h => he (congrArg Elem.slot h))).symm
  case nslot => exact (putSlot_nslot k x s).symm
  all_goals simp [Elem.Same]

theorem putSlots_same {e : Elem} {xs : List Slot} {s : State} (hn : xs.length = s.nslot) (he : ∀ k, e ≠ .slot k) :
    e.Same s (putSlots xs s) := by
  cases e
  case slot k => exact absurd rfl (he k)
  case nslot => exact hn.symm
  all_goals simp [Elem.Same]

theorem putRng_same {e : Elem} (q : List Byte) (d : Nat) (s : State) (he : e ≠ .rng) : e.Same s (putRng q d s) := by
  cases e
  case rng => exact absurd rfl he
  all_goals simp [Elem.Same]

theorem putWordout_same {e : Elem} (x : Chars) (s : State) (he : e ≠ .wordout) : e.Same s (putWordout x s) := by
  cases e
  case wordout => exact absurd rfl he
  all_goals simp [Elem.Same]

theorem putIdxr_same {e : Elem} (x : BitVec 4) (s : State) (he : e ≠ .idxr) : e.Same s (putIdxr x s) := by
  cases e
  case idxr => exact absurd rfl he
  all_goals simp [Elem.Same]

theorem putGfr_same {e : Elem} (x : Byte) (s : State) (he : e ≠ .gfr) : e.Same s (putGfr x s) := by
  cases e
  case gfr => exact absurd rfl he
  all_goals simp [Elem.Same]

/-- ZEROIZE writes every data buffer, so what it does not write is the latch, the configuration, the ROM and the source. -/
theorem zeroized_same {e : Elem} {s : State} (he : ¬ Writes .zeroize s e) : e.Same s (zeroized s) := by
  cases e
  case errcode | errinfo | poly | rom | rng => simp [Elem.Same]
  case nslot => exact (zeroized_nslot s).symm
  all_goals exact absurd (by simp [Writes]) he

/-! ### The frame of a command -/

/-- The number of slots a SPLIT leaves is the number there was. -/
@[simp] theorem splitSlots_length (poly : BitVec 9) (sec : Chunk) (r : List Byte) (t n nslot : Nat) :
    (splitSlots poly sec r t n nslot).length = nslot := by
  simp [splitSlots]

/-- Replacing entry 11 of the word buffer keeps the other entries. -/
theorem set_last_getElem (ws : WordBuf) (x : WordIdx) {j : Fin 12} (hj : j ≠ 11) : (ws.set 11 x)[j] = ws[j] :=
  Vector.getElem_set_ne _ _ fun h => hj (Fin.ext h.symm)

/-- A command that succeeds writes only what the column "writes on success" of the table of rule R32 lists for it. -/
theorem effect_frame {i : Instr} {s t : State} {e : Elem} (h : Effect i s t) (he : ¬ Writes i s e) : e.Same s t := by
  cases i <;> simp only [Effect] at h
  case nop => exact h ▸ Elem.Same.rfl
  case errclr => exact h ▸ clearLatch_same s (fun hc => he (.inl hc)) (fun hi => he (.inr hi))
  case zeroize => exact h ▸ zeroized_same he
  case wclr | pack => exact h ▸ putWords_same _ _ s (fun j hj => absurd (.inl ⟨j, hj⟩) he) (fun hn => he (.inr hn))
  case lookup =>
    obtain ⟨-, x, -, rfl⟩ := h
    refine putWords_same _ _ s (fun j hj => ?_) (fun hn => he (.inr hn))
    exact Vector.getElem_setIfInBounds_ne _ fun hw => he (.inl ⟨j, hw.symm, hj⟩)
  case fetch j => exact h.2 ▸ putWordout_same _ s he
  case unpack | stsec => exact h ▸ putCodec_same _ _ s (fun p hp => he (.inl ⟨p, hp⟩)) (fun hn => he (.inr hn))
  case stsh k =>
    obtain ⟨-, -, rfl⟩ := h
    exact putCodec_same _ _ s (fun p hp => he (.inl ⟨p, hp⟩)) (fun hn => he (.inr hn))
  case embed i =>
    obtain ⟨-, -, -, rfl⟩ := h
    exact putW_same _ s fun j hj => set_last_getElem _ _ fun h11 => he (hj.trans (congrArg Elem.w h11))
  case extract =>
    obtain ⟨-, rfl⟩ := h
    refine (putW_same _ s fun j hj => ?_).trans (putIdxr_same _ _ fun hi => he (.inl hi))
    exact set_last_getElem _ _ fun h11 => he (.inr (hj.trans (congrArg Elem.w h11)))
  case fadd | fmul => exact h ▸ putGfr_same _ s he
  case finv => exact h.2 ▸ putGfr_same _ s he
  case split a n =>
    obtain ⟨-, r, s1, hr, rfl⟩ := h
    obtain ⟨rfl, -, -⟩ := rngDraws_some hr
    exact (putRng_same _ _ s fun hr => he (.inr hr)).trans
      (putSlots_same (splitSlots_length ..) fun k hk => he (.inl ⟨k, hk⟩))
  case combine a =>
    obtain ⟨-, -, -, -, rfl⟩ := h
    exact putSec_same _ s fun p hp => he ⟨p, hp⟩
  case ldsec => exact h.2 ▸ putSec_same _ s fun p hp => he ⟨p, hp⟩
  case ldsh k i =>
    obtain ⟨hk, -, -, rfl⟩ := h
    exact putSlot_same _ hk he

/-- Settles O18: a dropped command changes nothing, error entry the latch, and a success what `effect_frame` says. -/
theorem commandsWriteOnlyTheirElements : Obligations.CommandsWriteOnlyTheirElements := by
  intro i s t h
  rcases exec_next h with ⟨-, -, rfl⟩ | ⟨hl, x, -, rfl⟩ | ⟨-, heff⟩
  · exact ⟨fun e _ _ _ => Elem.Same.rfl, fun _ _ => rfl, rfl, rfl⟩
  · exact ⟨fun e _ hc hi => latchError_same x _ s hc hi, fun _ hc => absurd (hc.trans hl) (errCode_ne_zero x), rfl, rfl⟩
  · obtain ⟨-, -, -, -, hport, hans⟩ := effect_keeps heff
    refine ⟨fun e he _ _ => effect_frame heff he, fun hi _ => ?_, hport, hans⟩
    have hw : ¬ Writes i s .errinfo := by cases i <;> simp [Writes] at hi ⊢
    exact (effect_frame heff hw).symm

end Sys2Proof.Machine
end

section
/-!
SUPPORT. What every step keeps and what a reset leaves: the invariants (spec/10_state.md rule R33), the configuration (R22,
R40), and the values after reset (R44).
-/

namespace Sys2Proof.Machine

/-! ### The invariants of rule R33 -/

/-- Settles O13: after reset both counts and the latch are 0. -/
theorem invariantsHoldAtReset : Obligations.InvariantsHoldAtReset :=
  ⟨by decide, by decide, by decide, fun _ => rfl⟩

/-- The packing of at most 16 bytes fits the word buffer (R111). -/
theorem packedLength_le {n : Nat} (h : n ≤ 16) : packedLength n ≤ 12 := by
  unfold packedLength; omega

/-- The unpacking of at most 12 indices fits the codec byte buffer (R112). -/
theorem unpackedLength_le {n : Nat} (h : n ≤ 12) : unpackedLength n ≤ 16 := by
  unfold unpackedLength; omega

@[simp] theorem codecBytes_length (s : State) : s.codecBytes.length = min s.blen.toNat 16 := by
  simp [State.codecBytes]

@[simp] theorem codecWords_length (s : State) : s.codecWords.length = min s.wcnt.toNat 12 := by
  simp [State.codecWords]

theorem putWords_inv {ws : WordBuf} {n : BitVec 4} {s : State} (h : s.Inv) (hn : n.toNat ≤ 12) : (putWords ws n s).Inv := by
  obtain ⟨hb, -, hc, hi⟩ := h
  exact ⟨hb, hn, hc, hi⟩

theorem putCodec_inv {c : Chunk} {n : BitVec 5} {s : State} (h : s.Inv) (hn : n.toNat ≤ 16) : (putCodec c n s).Inv := by
  obtain ⟨-, hw, hc, hi⟩ := h
  exact ⟨hn, hw, hc, hi⟩

theorem clearLatch_inv {s : State} (h : s.Inv) : (clearLatch s).Inv := by
  obtain ⟨hb, hw, -, -⟩ := h
  exact ⟨hb, hw, List.mem_cons_self, fun _ => rfl⟩

theorem zeroized_inv {s : State} (h : s.Inv) : (zeroized s).Inv := by
  obtain ⟨-, -, hc, hi⟩ := h
  exact ⟨Nat.zero_le _, Nat.zero_le _, hc, hi⟩

theorem resetEvent_inv (s : State) : (resetEvent s).Inv :=
  ⟨Nat.zero_le _, Nat.zero_le _, List.mem_cons_self, fun _ => rfl⟩

theorem putPort_inv {s : State} (p : List Event) (h : s.Inv) : (putPort p s).Inv :=
  h.congr rfl rfl rfl rfl

/-- Error entry keeps the invariants when the error's code is one that occurs: ERRINFO is then free (R31, R224). -/
theorem latchError_inv {e : Err} {s : State} (cw : Reg32) (he : e.code ∈ occurringCodes) (h : s.Inv) :
    (latchError e cw s).Inv := by
  obtain ⟨hb, hw, -, -⟩ := h
  exact ⟨hb, hw, he, fun h0 => absurd h0 (errCode_ne_zero e)⟩

/-- The errors a command can raise have codes that occur (R31, R223). -/
theorem code_mem_occurringCodes {i : Instr} {e : Err} (h : e ∈ errorsOf i) : e.code ∈ occurringCodes := by
  have hall : ∀ x ∈ errorsOf i, x.code ∈ occurringCodes := by cases i <;> simp only [errorsOf] <;> decide
  exact hall e h

/-- A command that writes neither count nor the latch keeps the invariants. -/
theorem effect_inv_of_frame {i : Instr} {s t : State} (h : Effect i s t) (hs : s.Inv)
    (hw : ∀ e ∈ [Elem.blen, .wcnt, .errcode, .errinfo], ¬ Writes i s e) : t.Inv :=
  hs.congr (effect_frame h (hw .blen (by simp))).symm (effect_frame h (hw .wcnt (by simp))).symm
    (effect_frame h (hw .errcode (by simp))).symm (effect_frame h (hw .errinfo (by simp))).symm

/-- A command that succeeds keeps the invariants: each count it writes stays within its buffer. -/
theorem effect_inv {i : Instr} {s t : State} (h : Effect i s t) (hs : s.Inv) : t.Inv := by
  have ⟨hb, hw, _, _⟩ := hs
  cases i
  case errclr => exact h ▸ clearLatch_inv hs
  case zeroize => exact h ▸ zeroized_inv hs
  case wclr => exact h ▸ putWords_inv hs (Nat.zero_le _)
  case lookup =>
    obtain ⟨hfull, x, -, rfl⟩ := h
    exact putWords_inv hs (by bv_omega)
  case pack =>
    have hlen := packedLength_le (n := min s.blen.toNat 16) (by omega)
    exact h ▸ putWords_inv hs (by rw [BitVec.toNat_ofNat, pack_length, codecBytes_length]; omega)
  case unpack =>
    have hlen := unpackedLength_le (n := min s.wcnt.toNat 12) (by omega)
    exact h ▸ putCodec_inv hs (by rw [BitVec.toNat_ofNat, unpack_length, codecWords_length]; omega)
  case stsec => exact h ▸ putCodec_inv hs (Nat.le_refl 16)
  case stsh k =>
    obtain ⟨-, -, rfl⟩ := h
    exact putCodec_inv hs (Nat.le_refl 16)
  all_goals exact effect_inv_of_frame h hs (by simp [Writes])

/-- A command keeps the invariants, whether it is dropped, raises or succeeds. -/
theorem exec_inv {i : Instr} {s t : State} (h : exec i s = .next t) (hs : s.Inv) : t.Inv := by
  rcases exec_next h with ⟨-, -, rfl⟩ | ⟨-, e, he, rfl⟩ | ⟨-, heff⟩
  · exact hs
  · exact latchError_inv _ (code_mem_occurringCodes he) hs
  · exact effect_inv heff hs

/-- A command word keeps the invariants, legal or not. -/
theorem runCommand_inv {cw : Reg32} {s t : State} (h : runCommand cw s = .next t) (hs : s.Inv) : t.Inv := by
  rcases runCommand_next h with ⟨i, -, hx⟩ | ⟨-, -, ⟨-, rfl⟩ | ⟨-, rfl⟩⟩
  · exact exec_inv hx hs
  · exact hs
  · exact latchError_inv cw (by decide) hs

/-- Settles O14, by the cases of a step: reads change no element, and host writes, commands and resets keep the bounds. -/
theorem everyStepKeepsTheInvariants : Obligations.EveryStepKeepsTheInvariants := by
  intro s t hs h
  obtain ⟨-, rfl⟩ | ⟨rest, ⟨r, -, rfl⟩ | ⟨r, v, -, -, rfl⟩ | ⟨cw, -, hcw⟩ | ⟨-, later, -, -, -, rfl⟩ | ⟨-, rfl⟩⟩ :=
    step_next h
  · exact hs
  · exact hs.congr rfl rfl rfl rfl
  · exact writeRegAt_inv r v (putPort_inv rest hs)
  · exact runCommand_inv hcw (putPort_inv rest hs)
  · exact resetEvent_inv _
  · exact resetEvent_inv _

/-! ### The configuration -/

/-- A command word leaves NSLOT, POLY and the ROM alone (R22, R40). -/
theorem runCommand_keeps_config {cw : Reg32} {s t : State} (h : runCommand cw s = .next t) :
    t.nslot = s.nslot ∧ t.poly = s.poly ∧ t.rom = s.rom := by
  rcases runCommand_next h with ⟨i, -, hx⟩ | ⟨-, -, ⟨-, rfl⟩ | ⟨-, rfl⟩⟩
  · rcases exec_next hx with ⟨-, -, rfl⟩ | ⟨-, e, -, rfl⟩ | ⟨-, heff⟩
    · exact ⟨rfl, rfl, rfl⟩
    · exact ⟨rfl, rfl, rfl⟩
    · obtain ⟨-, hpoly, hrom, hnslot, -⟩ := effect_keeps heff
      exact ⟨hnslot, hpoly, hrom⟩
  · exact ⟨rfl, rfl, rfl⟩
  · exact ⟨rfl, rfl, rfl⟩

/-- Settles O15, by the cases of a step. -/
theorem noStepChangesTheConfiguration : Obligations.NoStepChangesTheConfiguration := by
  intro s t h
  obtain ⟨-, rfl⟩ | ⟨rest, ⟨r, -, rfl⟩ | ⟨r, v, -, -, rfl⟩ | ⟨cw, -, hcw⟩ | ⟨-, later, -, -, -, rfl⟩ | ⟨-, rfl⟩⟩ :=
    step_next h
  · exact ⟨rfl, rfl, rfl⟩
  · exact ⟨rfl, rfl, rfl⟩
  · obtain ⟨hnslot, hpoly, hrom, -⟩ := writeRegAt_keeps r v (putPort rest s)
    exact ⟨hnslot, hpoly, hrom⟩
  · simpa using runCommand_keeps_config hcw
  · exact ⟨resetEvent_nslot _, rfl, rfl⟩
  · exact ⟨resetEvent_nslot _, rfl, rfl⟩

/-! ### Reset -/

/-- A read of CFG returns NSLOT and POLY (R31). -/
theorem portRead_cfg (s : State) : portRead 3#12 s = cfgReg s := rfl

/-- Settles O16: the elements after a reset are those of `resetEvent`. -/
theorem resetClearsEveryElement : Obligations.ResetClearsEveryElement := by
  refine ⟨fun s rest hp => ⟨resetEvent (putPort rest s), ?_, ?_, ?_, ?_, ?_⟩, ?_⟩
  · rw [step, nextTransaction, hp]; rfl
  · exact fun p => ⟨Vector.getElem_replicate _, Vector.getElem_replicate _⟩
  · exact fun j => Vector.getElem_replicate _
  · intro x hx
    obtain rfl := List.eq_of_mem_replicate hx
    exact ⟨rfl, rfl, fun p => Vector.getElem_replicate _⟩
  · simp [portRead_cfg, cfgReg]
  · simp [resetEvent, State.reset, State.nslot]

end Sys2Proof.Machine
end

section
/-!
SUPPORT. A command's result depends only on what the column "reads" of the table of rule R32 lists (spec/10_state.md): the
two runs are compared check by check along the command's meaning.
-/

namespace Sys2Proof.Machine

/-! ### The buffers as they are read -/

/-- Chunks that agree on every byte are the same. -/
theorem chunk_eq_of_bytes {x y : Chunk} (h : ∀ p : Fin 16, x[p] = y[p]) : x = y :=
  Vector.ext fun p hp => h ⟨p, hp⟩

/-- The first n entries of two buffers are the same list when the entries below n are. -/
theorem take_toList_congr {α : Type} {m n : Nat} {x y : Vector α m} (h : ∀ p : Fin m, p.val < n → x[p] = y[p]) :
    x.toList.take n = y.toList.take n := by
  refine List.ext_getElem (by simp) fun p hp _ => ?_
  simp only [List.length_take, Vector.length_toList] at hp
  simpa using h ⟨p, by omega⟩ (show p < n by omega)

/-- The codec bytes are the bytes of CB below BLEN (R25). -/
theorem codecBytes_congr {a b : State} (hn : a.blen = b.blen) (h : ∀ p : Fin 16, p.val < a.blen.toNat → a.cb[p] = b.cb[p]) :
    a.codecBytes = b.codecBytes := by
  rw [State.codecBytes, State.codecBytes, ← hn, take_toList_congr h]

/-- The codec words are the entries of W below WCNT (R26). -/
theorem codecWords_congr {a b : State} (hn : a.wcnt = b.wcnt) (h : ∀ j : Fin 12, j.val < a.wcnt.toNat → a.w[j] = b.w[j]) :
    a.codecWords = b.codecWords := by
  rw [State.codecWords, State.codecWords, ← hn, take_toList_congr h]

/-- Entry n of two word buffers is the same when the buffers agree there. -/
theorem wordAt_congr {x y : WordBuf} {n : Nat} (h : ∀ m : Fin 12, m.val = n → x[m] = y[m]) : wordAt x n = wordAt y n := by
  by_cases hn : n < 12
  · simpa [wordAt, hn] using h ⟨n, hn⟩ rfl
  · simp [wordAt, hn]

/-- Two states with the same random source draw the same byte. -/
theorem rngDraw_congr {a b : State} (h : Elem.rng.Same a b) :
    rngDraw b = (rngDraw a).map fun q => (q.1, putRng q.2.rngQueue q.2.rngDrawn b) := by
  obtain ⟨hq, hd, ha⟩ := h
  simp only [rngDraw, ← hq, ← hd, ← ha]
  cases a.rngQueue with
  | cons x rest => rfl
  | nil => by_cases hr : a.rngAnswers = true <;> simp [hr]

/-- Two states with the same random source draw the same bytes. -/
theorem rngDraws_congr {n : Nat} {a b a' b' : State} {r r' : List Byte} (h : Elem.rng.Same a b)
    (hr : rngDraws n a = some (r, a')) (hr' : rngDraws n b = some (r', b')) : r = r' := by
  induction n generalizing a b a' b' r r' with
  | zero => cases hr; cases hr'; rfl
  | succ n ih =>
    rw [rngDraws] at hr hr'
    rw [rngDraw_congr h] at hr'
    cases hd : rngDraw a with
    | none => simp [hd] at hr
    | some q =>
      obtain ⟨x, a1⟩ := q
      simp only [hd, Option.map_some] at hr hr'
      split at hr
      · cases hr
      · next bs s2 hbs =>
        split at hr'
        · cases hr'
        · next bs' s2' hbs' =>
          have hsame : Elem.rng.Same a1 (putRng a1.rngQueue a1.rngDrawn b) := by
            obtain ⟨-, -, ha⟩ := h
            obtain ⟨rfl, -⟩ := rngDraw_some hd
            exact ⟨rfl, rfl, ha⟩
          cases hr
          cases hr'
          rw [ih hsame hbs hbs']

/-! ### Two runs of one command -/

/-- Two answers of command i, from state a and another, that are the same as far as rule R32 speaks of them: the same error,
and on success the same values in everything the command writes. -/
def SameResult (i : Instr) (a : State) (x y : Answer) : Prop :=
  ∀ a' b', x = .next a' → y = .next b' →
    a'.errcode = b'.errcode ∧ (a'.errcode = 0 → ∀ e, Writes i a e → e.Same a' b')

namespace SameResult

variable {i : Instr} {a b : State} {x y x' y' : Answer}

theorem next {a' b' : State} (hc : a'.errcode = b'.errcode) (h : ∀ e, Writes i a e → e.Same a' b') :
    SameResult i a (.next a') (.next b') := by
  rintro _ _ ⟨⟩ ⟨⟩
  exact ⟨hc, fun _ => h⟩

/-- Raising the same error is the same result, whatever the states. -/
theorem raise (e : Err) (cw : Reg32) : SameResult i a (Machine.raise e cw a) (Machine.raise e cw b) := by
  rintro _ _ ⟨⟩ ⟨⟩
  exact ⟨rfl, fun h => absurd h (errCode_ne_zero e)⟩

/-- A command that never completes gives no result to compare. -/
theorem fault (f : Fault) : SameResult i a (.fault f) y := by
  rintro _ _ ⟨⟩

theorem fault_right (f : Fault) : SameResult i a x (.fault f) := by
  rintro _ _ _ ⟨⟩

/-- A check that comes out the same in both states is compared branch by branch. -/
theorem ite {p q : Prop} [Decidable p] [Decidable q] (hpq : p ↔ q) (ht : SameResult i a x y)
    (hf : ¬ p → SameResult i a x' y') : SameResult i a (if p then x else x') (if q then y else y') := by
  by_cases hp : p
  · rwa [if_pos hp, if_pos (hpq.mp hp)]
  · rw [if_neg hp, if_neg (mt hpq.mpr hp)]
    exact hf hp

/-- With the latch clear in both states the gate lets both commands through. -/
theorem gate (ha : a.errcode = 0) (hb : b.errcode = 0) (h : SameResult i a x y) :
    SameResult i a (unlessLatched a x) (unlessLatched b y) := by
  rwa [unlessLatched_clear ha, unlessLatched_clear hb]

end SameResult

/-- Command i, run from two states with the latch clear that agree on what it reads, gives the same result. -/
def DependsOnReads (i : Instr) : Prop :=
  ∀ a b : State, a.errcode = 0 → b.errcode = 0 → (∀ e, Reads i a e → e.Same a b) →
    SameResult i a (exec i a) (exec i b)

/-! ### System commands -/

theorem nop_dependsOnReads : DependsOnReads .nop := fun _ _ ha hb _ =>
  .gate ha hb (.next (ha.trans hb.symm) fun _ hw => hw.elim)

theorem errclr_dependsOnReads : DependsOnReads .errclr := fun _ _ _ _ _ =>
  .next rfl (by rintro _ (rfl | rfl) <;> rfl)

theorem zeroize_dependsOnReads : DependsOnReads .zeroize := by
  intro a b ha hb _
  refine .next (by simp [ha, hb]) ?_
  rintro _ (⟨p, rfl⟩ | ⟨k, rfl⟩ | ⟨p, rfl⟩ | rfl | ⟨j, rfl⟩ | rfl | rfl | rfl | rfl | rfl | rfl | rfl) <;> simp [Elem.Same]

/-! ### The codec -/

theorem wclr_dependsOnReads : DependsOnReads .wclr := fun _ _ ha hb _ =>
  .gate ha hb (.next (by simp [ha, hb]) (by rintro _ (⟨j, rfl⟩ | rfl) <;> rfl))

theorem lookup_dependsOnReads : DependsOnReads .lookup := by
  intro a b ha hb h
  have hin : a.wordin = b.wordin := h .wordin (.inl rfl)
  have hcnt : a.wcnt = b.wcnt := h .wcnt (.inr (.inl rfl))
  have hrom : a.rom = b.rom := h .rom (.inr (.inr rfl))
  refine .gate ha hb (.ite (by rw [hcnt]) (.raise _ _) fun _ => ?_)
  rw [← hin, ← hrom, ← hcnt]
  cases romFind a.rom a.wordin with
  | none => exact .raise _ _
  | some x =>
    refine .next (by simp [ha, hb]) ?_
    rintro _ (⟨j, hj, rfl⟩ | rfl)
    · simp [Elem.Same, ← hj]
    · rfl

theorem fetch_dependsOnReads (j : Byte) : DependsOnReads (.fetch j) := by
  intro a b ha hb h
  have hword : wordAt a.w (operand j) = wordAt b.w (operand j) :=
    wordAt_congr fun m hm => h (.w m) (.inl ⟨m, hm, rfl⟩)
  have hcnt : a.wcnt = b.wcnt := h .wcnt (.inr (.inl rfl))
  have hrom : a.rom = b.rom := h .rom (.inr (.inr rfl))
  refine .gate ha hb (.ite (by rw [hcnt]) (.raise _ _) fun _ => .next (by simp [ha, hb]) ?_)
  rintro _ rfl
  simp [Elem.Same, hword, hrom]

theorem pack_dependsOnReads : DependsOnReads .pack := by
  intro a b ha hb h
  have hbytes : a.codecBytes = b.codecBytes :=
    codecBytes_congr (h .blen (.inr rfl)) fun p hp => h (.cb p) (.inl ⟨p, hp, rfl⟩)
  refine .gate ha hb (.next (by simp [ha, hb]) ?_)
  rintro _ (⟨j, rfl⟩ | rfl) <;> simp [Elem.Same, hbytes]

theorem unpack_dependsOnReads : DependsOnReads .unpack := by
  intro a b ha hb h
  have hwords : a.codecWords = b.codecWords :=
    codecWords_congr (h .wcnt (.inr rfl)) fun j hj => h (.w j) (.inl ⟨j, hj, rfl⟩)
  refine .gate ha hb (.next (by simp [ha, hb]) ?_)
  rintro _ (⟨p, rfl⟩ | rfl) <;> simp [Elem.Same, hwords]

/-! ### The share-index field -/

theorem embed_dependsOnReads (i : Byte) : DependsOnReads (.embed i) := by
  intro a b ha hb h
  have hlast : a.w[11] = b.w[11] := h (.w 11) (.inl rfl)
  have hcnt : a.wcnt = b.wcnt := h .wcnt (.inr rfl)
  refine .gate ha hb (.ite .rfl (.raise _ _) fun _ => .ite (by rw [hcnt]) (.raise _ _) fun _ => .next (by simp [ha, hb]) ?_)
  rintro _ rfl
  simp [Elem.Same, hlast]

theorem extract_dependsOnReads : DependsOnReads .extract := by
  intro a b ha hb h
  have hlast : a.w[11] = b.w[11] := h (.w 11) (.inl rfl)
  have hcnt : a.wcnt = b.wcnt := h .wcnt (.inr rfl)
  refine .gate ha hb (.ite (by rw [hcnt]) (.raise _ _) fun _ => .next (by simp [ha, hb]) ?_)
  rintro _ (rfl | rfl) <;> simp [Elem.Same, hlast]

/-! ### The field -/

theorem fadd_dependsOnReads : DependsOnReads .fadd := by
  intro a b ha hb h
  have hgfa : a.gfa = b.gfa := h .gfa (.inl rfl)
  have hgfb : a.gfb = b.gfb := h .gfb (.inr rfl)
  refine .gate ha hb (.next (by simp [ha, hb]) ?_)
  rintro _ rfl
  simp [Elem.Same, hgfa, hgfb]

theorem fmul_dependsOnReads : DependsOnReads .fmul := by
  intro a b ha hb h
  have hgfa : a.gfa = b.gfa := h .gfa (.inl rfl)
  have hgfb : a.gfb = b.gfb := h .gfb (.inr (.inl rfl))
  have hpoly : a.poly = b.poly := h .poly (.inr (.inr rfl))
  refine .gate ha hb (.next (by simp [ha, hb]) ?_)
  rintro _ rfl
  simp [Elem.Same, hgfa, hgfb, hpoly]

theorem finv_dependsOnReads : DependsOnReads .finv := by
  intro a b ha hb h
  have hgfa : a.gfa = b.gfa := h .gfa (.inl rfl)
  have hpoly : a.poly = b.poly := h .poly (.inr rfl)
  refine .gate ha hb (.ite (by rw [hgfa]) (.raise _ _) fun _ => .next (by simp [ha, hb]) ?_)
  rintro _ rfl
  simp [Elem.Same, hgfa, hpoly]

/-! ### Shamir -/

theorem split_dependsOnReads (t n : Byte) : DependsOnReads (.split t n) := by
  intro a b ha hb h
  have hsec : a.sec = b.sec := chunk_eq_of_bytes fun p => h (.sec p) (.inl ⟨p, rfl⟩)
  have hrng : Elem.rng.Same a b := h .rng (.inr (.inl rfl))
  have hnslot : a.nslot = b.nslot := h .nslot (.inr (.inr (.inl rfl)))
  have hpoly : a.poly = b.poly := h .poly (.inr (.inr (.inr rfl)))
  refine .gate ha hb (.ite (by rw [hnslot]) (.raise _ _) fun _ => ?_)
  split
  · exact .fault _
  · next r a1 hr =>
    split
    · exact .fault_right _
    · next r' b1 hr' =>
      obtain rfl := rngDraws_congr hrng hr hr'
      obtain ⟨rfl, -, -⟩ := rngDraws_some hr
      obtain ⟨rfl, -, -⟩ := rngDraws_some hr'
      obtain ⟨hqueue, hdrawn, hans⟩ := hrng
      refine .next (by simp [ha, hb]) ?_
      rintro _ (⟨k, rfl⟩ | rfl)
      · simp [Elem.Same, hsec, hnslot, hpoly]
      · simp [Elem.Same, hqueue, hdrawn, hans]

theorem combine_dependsOnReads (t : Byte) : DependsOnReads (.combine t) := by
  intro a b ha hb h
  have hnslot : a.nslot = b.nslot := h .nslot (.inr (.inl rfl))
  have hpoly : a.poly = b.poly := h .poly (.inr (.inr rfl))
  have hsh : a.sh = b.sh := State.sh_eq_of_slot hnslot fun k _ => h (.slot k) (.inl ⟨k, rfl⟩)
  refine .gate ha hb (.ite (by rw [hnslot]) (.raise _ _) fun _ => .ite (by rw [hsh]) (.raise _ _) fun _ =>
    .ite (by rw [hsh]) (.raise _ _) fun _ => .ite (by rw [hsh]) (.raise _ _) fun _ => .next (by simp [ha, hb]) ?_)
  rintro _ ⟨p, rfl⟩
  simp [Elem.Same, hsh, hpoly]

/-! ### Chunk transfer -/

theorem ldsec_dependsOnReads : DependsOnReads .ldsec := by
  intro a b ha hb h
  have hblen : a.blen = b.blen := h .blen (.inr rfl)
  refine .gate ha hb (.ite (by rw [hblen]) (.raise _ _) fun _ => .next (by simp [ha, hb]) ?_)
  rintro _ ⟨p, rfl⟩
  exact h (.cb p) (.inl ⟨p, rfl⟩)

theorem stsec_dependsOnReads : DependsOnReads .stsec := by
  intro a b ha hb h
  refine .gate ha hb (.next (by simp [ha, hb]) ?_)
  rintro _ (⟨p, rfl⟩ | rfl)
  · exact h (.sec p) ⟨p, rfl⟩
  · rfl

theorem ldsh_dependsOnReads (k i : Byte) : DependsOnReads (.ldsh k i) := by
  intro a b ha hb h
  have hcb : a.cb = b.cb := chunk_eq_of_bytes fun p => h (.cb p) (.inl ⟨p, rfl⟩)
  have hblen : a.blen = b.blen := h .blen (.inr (.inl rfl))
  have hnslot : a.nslot = b.nslot := h .nslot (.inr (.inr rfl))
  refine .gate ha hb (.ite (by rw [hnslot]) (.raise _ _) fun hk => .ite (by rw [hblen]) (.raise _ _) fun _ =>
    .next (by simp [ha, hb]) ?_)
  rintro _ rfl
  have hka : operand k < a.nslot := by omega
  simp [Elem.Same, putSlot_slot, hka, ← hnslot, hcb]

theorem stsh_dependsOnReads (k : Byte) : DependsOnReads (.stsh k) := by
  intro a b ha hb h
  have hslot : a.slot (operand k) = b.slot (operand k) := h (.slot (operand k)) (.inl rfl)
  have hnslot : a.nslot = b.nslot := h .nslot (.inr rfl)
  refine .gate ha hb (.ite (by rw [hslot, hnslot]) (.raise _ _) fun _ => .next (by simp [ha, hb]) ?_)
  rintro _ (⟨p, rfl⟩ | rfl) <;> simp [Elem.Same, hslot]

/-- Every command depends only on what the column "reads" of the table of rule R32 lists for it. -/
theorem dependsOnReads (i : Instr) : DependsOnReads i :=
  match i with
  | .nop => nop_dependsOnReads
  | .errclr => errclr_dependsOnReads
  | .zeroize => zeroize_dependsOnReads
  | .wclr => wclr_dependsOnReads
  | .lookup => lookup_dependsOnReads
  | .fetch j => fetch_dependsOnReads j
  | .pack => pack_dependsOnReads
  | .unpack => unpack_dependsOnReads
  | .embed x => embed_dependsOnReads x
  | .extract => extract_dependsOnReads
  | .fadd => fadd_dependsOnReads
  | .fmul => fmul_dependsOnReads
  | .finv => finv_dependsOnReads
  | .split t n => split_dependsOnReads t n
  | .combine t => combine_dependsOnReads t
  | .ldsec => ldsec_dependsOnReads
  | .stsec => stsec_dependsOnReads
  | .ldsh k x => ldsh_dependsOnReads k x
  | .stsh k => stsh_dependsOnReads k

/-- Settles O19: `dependsOnReads` for two runs that complete. -/
theorem commandsReadOnlyTheirElements : Obligations.CommandsReadOnlyTheirElements :=
  fun i a b a' b' ha hb h hx hy => dependsOnReads i a b ha hb h a' b' hx hy

end Sys2Proof.Machine
end

section
/-!
SUPPORT. Which commands draw from the random source, and when a SPLIT waits for it for ever (spec/20_memory.md rule R70,
spec/43_shamir.md rule R162).
-/

namespace Sys2Proof.Machine

/-- SPLIT is the one command whose column "writes on success" lists draws (R32, R70). -/
theorem writes_rng_iff (i : Instr) (s : State) : Writes i s .rng ↔ ∃ a n, i = .split a n := by
  cases i <;> simp [Writes]

/-- A SPLIT that succeeds takes its draws from the source and nothing more (R70, R162). -/
theorem effect_split_rng {a n : Byte} {s t : State} (h : Effect (.split a n) s t) :
    t.rngDrawn = s.rngDrawn + 16 * (a.toNat - 1) ∧ t.rngQueue = s.rngQueue.drop (16 * (a.toNat - 1)) ∧
      t.rngAnswers = s.rngAnswers := by
  obtain ⟨-, r, s1, hr, rfl⟩ := h
  obtain ⟨rfl, -, -⟩ := rngDraws_some hr
  exact ⟨rfl, rfl, rfl⟩

/-- Draws get no answer when the source cannot answer that many. -/
theorem rngDraws_eq_none {n : Nat} {s : State} (h : ¬ s.CanDraw n) : rngDraws n s = none := by
  rwa [← rngDraws_isSome, Option.not_isSome_iff_eq_none] at h

/-- A SPLIT of legal parameters never completes when the source cannot answer its draws (R70, 93 U4). -/
theorem exec_split_of_not_canDraw {a n : Byte} {s : State} (hl : s.errcode = 0) (ha : 2 ≤ a.toNat)
    (han : a.toNat ≤ n.toNat) (hn : n.toNat ≤ s.nslot) (hd : ¬ s.CanDraw (16 * (a.toNat - 1))) :
    exec (.split a n) s = .fault .rngSilent := by
  have hpar : 2 ≤ operand a ∧ operand a ≤ operand n ∧ operand n ≤ s.nslot := ⟨ha, han, hn⟩
  refine (unlessLatched_clear hl).trans ?_
  rw [if_neg (not_not.2 hpar), operand, rngDraws_eq_none hd]

/-- Settles O21: error entry leaves the source alone, and of the effects only SPLIT's writes it. -/
theorem onlySuccessfulSplitDraws : Obligations.OnlySuccessfulSplitDraws := by
  refine ⟨fun i s t hl h => ?_, fun a n s hl ha han hn hd => exec_split_of_not_canDraw hl ha han hn hd⟩
  rcases exec_next h with ⟨hset, -, -⟩ | ⟨-, e, -, rfl⟩ | ⟨-, heff⟩
  · exact absurd hl hset
  · exact .inr ⟨.inr (errCode_ne_zero e), rfl, rfl, rfl⟩
  · by_cases hi : ∃ a n, i = .split a n
    · obtain ⟨a, n, rfl⟩ := hi
      exact .inl ⟨a, n, rfl, (effect_keeps heff).1 hl, effect_split_rng heff⟩
    · obtain ⟨hqueue, hdrawn, hans⟩ := effect_frame heff (mt (writes_rng_iff i s).mp hi)
      exact .inr ⟨.inl fun a n h => hi ⟨a, n, h⟩, hdrawn.symm, hqueue.symm, hans.symm⟩

end Sys2Proof.Machine
end

section
/-!
SUPPORT. The host port register by register: what a register number reaches, and what a read returns after a write of the same
register and of another (spec/20_memory.md rules R61 to R67).
-/

namespace Sys2Proof.Machine

/-! ### Register numbers -/

/-- Settles O22: the lemma `regAtNumber_eq_some` of the register map. -/
theorem registerMapIsTheTable : Obligations.RegisterMapIsTheTable := fun _ _ _ => regAtNumber_eq_some

/-- A port access reaches the register whose number it gives, if that register exists (R61). -/
theorem State.regAt_eq_some {s : State} {r : RegNum} {x : Reg} :
    s.regAt r = some x ↔ x.wellFormed s.nslot = true ∧ x.number = r.toNat :=
  regAtNumber_eq_some

/-- A port access reaches nothing when its number is no register's (R67). -/
theorem State.regAt_eq_none {s : State} {r : RegNum} (h : ∀ x : Reg, x.wellFormed s.nslot = true → x.number ≠ r.toNat) :
    s.regAt r = none :=
  Option.eq_none_iff_forall_ne_some.mpr fun x hx => h x (State.regAt_eq_some.mp hx).1 (State.regAt_eq_some.mp hx).2

/-- Two numbers that reach one register are the same. -/
theorem State.regAt_inj {s : State} {r r' : RegNum} {x : Reg} (h : s.regAt r = some x) (h' : s.regAt r' = some x) :
    r = r' :=
  BitVec.eq_of_toNat_eq ((State.regAt_eq_some.mp h).2.symm.trans (State.regAt_eq_some.mp h').2)

theorem portRead_of_regAt {s : State} {r : RegNum} {x : Reg} (h : s.regAt r = some x) : portRead r s = readReg s x := by
  rw [portRead, h]

theorem portRead_of_unmapped {s : State} {r : RegNum} (h : s.regAt r = none) : portRead r s = 0 := by
  rw [portRead, h]

theorem writeRegAt_of_regAt {s : State} {r : RegNum} {x : Reg} (v : Reg32) (h : s.regAt r = some x) :
    writeRegAt r v s = writeReg v s x := by
  rw [writeRegAt, h]

theorem writeRegAt_of_unmapped {s : State} {r : RegNum} (v : Reg32) (h : s.regAt r = none) : writeRegAt r v s = s := by
  rw [writeRegAt, h]

/-- A host write keeps NSLOT, so every register number reaches what it reached before. -/
@[simp] theorem regAt_writeReg (v : Reg32) (s : State) (x : Reg) (r : RegNum) : (writeReg v s x).regAt r = s.regAt r := by
  rw [State.regAt, (writeReg_keeps v s x).1, State.regAt]

/-- A host write of a register other than CMD completes, whatever the latch is (R63). -/
theorem portWrite_of_ne_cmd {r : RegNum} (v : Reg32) (s : State) (h : r ≠ 0x000) :
    portWrite r v s = .next (writeRegAt r v s) :=
  if_neg h

/-- Settles O23: an unmapped number reaches no register, and 0x000 is CMD's, so it is never unmapped. -/
theorem unmappedNumbersReadZeroAndIgnoreWrites : Obligations.UnmappedNumbersReadZeroAndIgnoreWrites := by
  refine ⟨fun s r h => ?_, fun s => rfl⟩
  have hnone : s.regAt r = none := State.regAt_eq_none h
  have hne : r ≠ 0x000 := fun h0 => h .cmd rfl (by rw [h0]; rfl)
  exact ⟨portRead_of_unmapped hnone, fun v => by rw [portWrite_of_ne_cmd v s hne, writeRegAt_of_unmapped v hnone]⟩

/-! ### The fields of a register -/

/-- A field of the low n bits reads back as the written value's low n bits (R65). -/
theorem setWidth_setWidth_eq_and_mask (v : Reg32) (n : Nat) :
    (v.setWidth n).setWidth 32 = v &&& BitVec.ofNat 32 (2 ^ n - 1) := by
  apply BitVec.eq_of_getLsbD_eq
  intro i hi
  simp only [BitVec.getLsbD_setWidth, BitVec.getLsbD_and, BitVec.getLsbD_ofNat, Nat.testBit_two_pow_sub_one, hi,
    decide_true, Bool.true_and, Bool.and_comm]

/-- The two fields of SHIDXk are bits [8:0] of the written value (R61, R65). -/
theorem shidxReg_written (v : Reg32) (pay : Chunk) : shidxReg ⟨v.getLsbD 8, v.setWidth 8, pay⟩ = v &&& 0x000001FF := by
  have hfields : BitVec.ofBool (v.getLsbD 8) ++ v.setWidth 8 = v.setWidth 9 := (BitVec.setWidth_succ v).symm
  calc shidxReg ⟨v.getLsbD 8, v.setWidth 8, pay⟩
    _ = 0#23 ++ (BitVec.ofBool (v.getLsbD 8) ++ v.setWidth 8) := BitVec.append_assoc
    _ = (v.setWidth 9).setWidth 32 := by rw [hfields]; exact (BitVec.setWidth_eq_append (by decide)).symm
    _ = v &&& 0x000001FF := setWidth_setWidth_eq_and_mask v 9

/-! ### What a write leaves another register reading -/

theorem readReg_putGfa_of_ne (b : Byte) (s : State) {y : Reg} (h : y ≠ .gfa) : readReg (putGfa b s) y = readReg s y := by
  cases y
  case gfa => exact absurd rfl h
  all_goals rfl

theorem readReg_putGfb_of_ne (b : Byte) (s : State) {y : Reg} (h : y ≠ .gfb) : readReg (putGfb b s) y = readReg s y := by
  cases y
  case gfb => exact absurd rfl h
  all_goals rfl

/-- The word buffer's count alone is written. -/
theorem readReg_putWords_of_ne (n : BitVec 4) (s : State) {y : Reg} (h : y ≠ .wcnt) :
    readReg (putWords s.w n s) y = readReg s y := by
  cases y
  case wcnt => exact absurd rfl h
  all_goals rfl

/-- The codec buffer's length alone is written. -/
theorem readReg_putCodec_of_ne (n : BitVec 5) (s : State) {y : Reg} (h : y ≠ .blen) :
    readReg (putCodec s.cb n s) y = readReg s y := by
  cases y
  case blen => exact absurd rfl h
  all_goals rfl

/-- A write of the low half of WORDIN keeps the high half. -/
theorem readReg_putWordin_lo_of_ne (v : Reg32) (s : State) {y : Reg} (h : y ≠ .wordinLo) :
    readReg (putWordin (charsOfHalves (charsHi s.wordin) v) s) y = readReg s y := by
  cases y
  case wordinLo => exact absurd rfl h
  case wordinHi => exact charsHi_charsOfHalves _ v
  all_goals rfl

/-- A write of the high half of WORDIN keeps the low half. -/
theorem readReg_putWordin_hi_of_ne (v : Reg32) (s : State) {y : Reg} (h : y ≠ .wordinHi) :
    readReg (putWordin (charsOfHalves v (charsLo s.wordin)) s) y = readReg s y := by
  cases y
  case wordinHi => exact absurd rfl h
  case wordinLo => exact charsLo_charsOfHalves v _
  all_goals rfl

/-- A new secret chunk is shown by the registers of SEC it differs in only. -/
theorem readReg_putSec (c : Chunk) (s : State) {y : Reg} (h : ∀ q, y = .sec q → chunkReg c q = chunkReg s.sec q) :
    readReg (putSec c s) y = readReg s y := by
  cases y
  case sec q => exact h q rfl
  all_goals rfl

/-- New codec bytes are shown by the registers of CB they differ in only. -/
theorem readReg_putCodec (c : Chunk) (s : State) {y : Reg} (h : ∀ q, y = .cb q → chunkReg c q = chunkReg s.cb q) :
    readReg (putCodec c s.blen s) y = readReg s y := by
  cases y
  case cb q => exact h q rfl
  all_goals rfl

/-- A new word buffer is shown by the registers of W it differs in only. -/
theorem readReg_putW (ws : WordBuf) (s : State) {y : Reg} (h : ∀ j : Fin 12, y = .w j → ws[j] = s.w[j]) :
    readReg (putW ws s) y = readReg s y := by
  cases y
  case w j => exact congrArg (BitVec.setWidth 32) (h j rfl)
  all_goals rfl

section
variable {k : Nat} {s : State} (x : Slot) (hk : k < s.nslot)
include hk

theorem readReg_putSlot_shidx (m : Nat) : readReg (putSlot k x s) (.shidx m) = shidxReg (if m = k then x else s.slot m) := by
  rw [readReg, putSlot_slot k x s m hk]

theorem readReg_putSlot_shpay (m : Nat) (q : Fin 4) :
    readReg (putSlot k x s) (.shpay m q) = chunkReg (if m = k then x else s.slot m).pay q := by
  rw [readReg, putSlot_slot k x s m hk]

/-- A slot is shown by its own five registers only. -/
theorem readReg_putSlot_of_ne {y : Reg} (hi : ∀ m, y = .shidx m → m = k → shidxReg x = shidxReg (s.slot k))
    (hp : ∀ m q, y = .shpay m q → m = k → chunkReg x.pay q = chunkReg (s.slot k).pay q) :
    readReg (putSlot k x s) y = readReg s y := by
  cases y
  case cfg => rw [readReg, cfgReg, putSlot_nslot]; rfl
  case shidx m =>
    rw [readReg_putSlot_shidx x hk]
    split
    · next hm => rw [hi m rfl hm, readReg, hm]
    · rfl
  case shpay m q =>
    rw [readReg_putSlot_shpay x hk]
    split
    · next hm => rw [hp m q rfl hm, readReg, hm]
    · rfl
  all_goals rfl

end

/-- After a host write of one register every other register has its value still (R63, R65). -/
theorem readReg_writeReg_of_ne {s : State} {x y : Reg} (v : Reg32) (hx : x.wellFormed s.nslot = true) (h : y ≠ x) :
    readReg (writeReg v s x) y = readReg s y := by
  cases x
  case wcnt =>
    rw [writeReg]
    split
    · exact readReg_putWords_of_ne _ s h
    · rfl
  case blen =>
    rw [writeReg]
    split
    · exact readReg_putCodec_of_ne _ s h
    · rfl
  case wordinLo => exact readReg_putWordin_lo_of_ne v s h
  case wordinHi => exact readReg_putWordin_hi_of_ne v s h
  case gfa => exact readReg_putGfa_of_ne _ s h
  case gfb => exact readReg_putGfb_of_ne _ s h
  case sec q =>
    refine readReg_putSec _ s fun q' hq => ?_
    rw [chunkReg_setChunkReg, if_neg fun e => h (hq.trans (congrArg Reg.sec e))]
  case cb q =>
    refine readReg_putCodec _ s fun q' hq => ?_
    rw [chunkReg_setChunkReg, if_neg fun e => h (hq.trans (congrArg Reg.cb e))]
  case w j =>
    refine readReg_putW _ s fun m hm => Vector.getElem_set_ne _ _ fun e => ?_
    exact h (hm.trans (congrArg Reg.w (Fin.ext e.symm)))
  case shidx k =>
    refine readReg_putSlot_of_ne _ (of_decide_eq_true hx) (fun m hm hmk => ?_) (fun _ _ _ _ => rfl)
    exact absurd (hm.trans (congrArg Reg.shidx hmk)) h
  case shpay k q =>
    refine readReg_putSlot_of_ne _ (of_decide_eq_true hx) (fun _ _ _ => rfl) (fun m q' hm hmk => ?_)
    rw [chunkReg_setChunkReg, if_neg fun hq => h (by rw [hm, hmk, hq])]
  all_goals rfl

/-- Settles O25: another number reaches another register or none. -/
theorem hostWriteChangesOneRegister : Obligations.HostWriteChangesOneRegister := by
  intro s r r' v hr hne
  refine ⟨writeRegAt r v s, portWrite_of_ne_cmd v s hr, ?_, ?_⟩
  · cases hx : s.regAt r with
    | none => rw [writeRegAt_of_unmapped v hx]
    | some x =>
      rw [writeRegAt_of_regAt v hx]
      cases hy : s.regAt r' with
      | none => rw [portRead_of_unmapped hy, portRead_of_unmapped (by rw [regAt_writeReg, hy])]
      | some y =>
        have hyx : y ≠ x := fun e => hne (State.regAt_inj hy (e ▸ hx))
        rw [portRead_of_regAt hy, portRead_of_regAt ((regAt_writeReg v s x r').trans hy),
          readReg_writeReg_of_ne v (State.regAt_eq_some.mp hx).1 hyx]
  · obtain ⟨hnslot, hpoly, hrom, -, -, -, -, -, hrest⟩ := writeRegAt_keeps r v s
    exact ⟨hnslot, hpoly, hrom, hrest⟩

/-! ### What a write leaves the same register reading -/

/-- Settles O24: the fields of each register, as the write sets them. -/
theorem readAfterWriteReturnsTheFields : Obligations.ReadAfterWriteReturnsTheFields := by
  rintro s r x v hx -
  rw [writeRegAt_of_regAt v hx, portRead_of_regAt ((regAt_writeReg v s x r).trans hx), portRead_of_regAt hx]
  have hwf := (State.regAt_eq_some.mp hx).1
  cases x
  case wcnt =>
    rw [writeReg]
    split
    · exact BitVec.setWidth_setWidth_eq_self (show v.toNat < 16 by omega)
    · rfl
  case blen =>
    rw [writeReg]
    split
    · exact BitVec.setWidth_setWidth_eq_self (show v.toNat < 32 by omega)
    · rfl
  case wordinLo => exact charsLo_charsOfHalves _ v
  case wordinHi => exact charsHi_charsOfHalves v _
  case gfa | gfb => exact setWidth_setWidth_eq_and_mask v 8
  case sec q => rw [writeReg, readReg, putSec_sec, chunkReg_setChunkReg, if_pos rfl]
  case cb q => rw [writeReg, readReg, putCodec_cb, chunkReg_setChunkReg, if_pos rfl]
  case w j =>
    have hw : (s.w.set j (v.setWidth 11))[j] = v.setWidth 11 := Vector.getElem_set_self _
    rw [writeReg, readReg, putW_w, hw]
    exact setWidth_setWidth_eq_and_mask v 11
  case shidx k =>
    rw [writeReg, readReg_putSlot_shidx _ (of_decide_eq_true hwf), if_pos rfl]
    exact shidxReg_written v _
  case shpay k q =>
    rw [writeReg, readReg_putSlot_shpay _ (of_decide_eq_true hwf), if_pos rfl, chunkReg_setChunkReg, if_pos rfl]
  all_goals rfl

/-! ### WCNT and BLEN -/

/-- A legal value keeps its number in the narrower field of a count (R66). -/
theorem toNat_setWidth_of_lt_two_pow {v : Reg32} {n : Nat} (h : v.toNat < 2 ^ n) : (v.setWidth n).toNat = v.toNat := by
  rw [BitVec.toNat_setWidth, Nat.mod_eq_of_lt h]

/-- Settles O26: 0x005 reaches WCNT and 0x006 BLEN, and a legal value fits the field. -/
theorem countsTakeLegalValuesOnly : Obligations.CountsTakeLegalValuesOnly := by
  intro s v
  refine ⟨⟨writeReg v s .wcnt, rfl, ?_⟩, ⟨writeReg v s .blen, rfl, ?_⟩⟩
  · rw [writeReg]
    split
    · next hv => exact ⟨rfl, fun _ => toNat_setWidth_of_lt_two_pow (by omega), fun hlt => absurd hv (by omega)⟩
    · next hv => exact ⟨rfl, fun hle => absurd hle hv, fun _ => rfl⟩
  · rw [writeReg]
    split
    · next hv => exact ⟨rfl, fun _ => toNat_setWidth_of_lt_two_pow (by omega), fun hlt => absurd hv (by omega)⟩
    · next hv => exact ⟨rfl, fun hle => absurd hle hv, fun _ => rfl⟩

end Sys2Proof.Machine
end

section
/-!
SUPPORT. The decoder, the encoder and the opcode table agree (spec/30_encoding.md rules R90 to R96): a command word fits a
command when its fields do, and then it selects that command's row, decodes to that command, and is that command's word.
-/

namespace Sys2Proof

/-! ### The words of a command -/

/-- The command of a name with operands A and B, of which it takes those it has (R91). -/
def Op.instr (o : Op) (a b : Byte) : Instr :=
  match o with
  | .nop => .nop
  | .errclr => .errclr
  | .zeroize => .zeroize
  | .wclr => .wclr
  | .lookup => .lookup
  | .fetch => .fetch a
  | .pack => .pack
  | .unpack => .unpack
  | .embed => .embed a
  | .extract => .extract
  | .fadd => .fadd
  | .fmul => .fmul
  | .finv => .finv
  | .split => .split a b
  | .combine => .combine a
  | .ldsec => .ldsec
  | .stsec => .stsec
  | .ldsh => .ldsh a b
  | .stsh => .stsh a

/-- The word is a word of the command `o`: none of the conditions of rule R94 holds of it for `o`. -/
structure Op.Fits (o : Op) (cw : Reg32) : Prop where
  z : fieldZ cw = 0
  code : fieldOP cw = o.code
  b : o.arity ≤ 1 → fieldB cw = 0
  a : o.arity = 0 → fieldA cw = 0

@[simp] theorem op_instr (o : Op) (a b : Byte) : (o.instr a b).op = o := by cases o <;> rfl

/-- The operands a command does not have are 0 in its word (R92). -/
theorem encode_instr (o : Op) (a b : Byte) :
    encode (o.instr a b) = commandWord o.code (if o.arity = 0 then 0 else a) (if o.arity ≤ 1 then 0 else b) := by
  cases o <;> rfl

/-- A word that fits a command is the command's word with the word's own operands (R92). -/
theorem Op.Fits.encode_eq {o : Op} {cw : Reg32} (h : o.Fits cw) : encode (o.instr (fieldA cw) (fieldB cw)) = cw := by
  have ha : (if o.arity = 0 then 0 else fieldA cw) = fieldA cw := ite_eq_right_iff.2 fun h0 => (h.a h0).symm
  have hb : (if o.arity ≤ 1 then 0 else fieldB cw) = fieldB cw := ite_eq_right_iff.2 fun h1 => (h.b h1).symm
  rw [encode_instr, ha, hb, ← h.code, commandWord_of_fields cw h.z]

/-! ### The decoder -/

/-- What the decoder does with an opcode of the table: it checks the operand fields the command does not use, B first
(R94 (c), (d)). -/
theorem decodeOp_code (o : Op) (a b : Byte) :
    decodeOp o.code a b =
      if o.arity ≤ 1 ∧ b ≠ 0 then .error .unusedB
      else if o.arity = 0 ∧ a ≠ 0 then .error .unusedA else .ok (o.instr a b) := by
  cases o <;> simp [decodeOp, Op.code, Op.arity, Op.instr, decodeNone, decodeA, decodeAB]

/-- What the decoder does with any other opcode (R94 (b)). -/
theorem decodeOp_unknown {op : Byte} (h : ∀ o : Op, op ≠ o.code) (a b : Byte) :
    decodeOp op a b = .error .unknownOpcode := by
  unfold decodeOp
  split
  exacts [absurd rfl (h .nop), absurd rfl (h .errclr), absurd rfl (h .zeroize), absurd rfl (h .wclr),
    absurd rfl (h .lookup), absurd rfl (h .fetch), absurd rfl (h .pack), absurd rfl (h .unpack), absurd rfl (h .embed),
    absurd rfl (h .extract), absurd rfl (h .fadd), absurd rfl (h .fmul), absurd rfl (h .finv), absurd rfl (h .split),
    absurd rfl (h .combine), absurd rfl (h .ldsec), absurd rfl (h .stsec), absurd rfl (h .ldsh), absurd rfl (h .stsh), rfl]

/-- No two commands have the same opcode (R92). -/
theorem code_injective : Function.Injective Op.code := by
  intro o o' h
  have hd : ∀ x : Op, decodeOp x.code 0 0 = .ok (x.instr 0 0) := fun x => by simp [decodeOp_code]
  have hi : o.instr 0 0 = o'.instr 0 0 := Except.ok.inj ((hd o).symm.trans (h ▸ hd o'))
  simpa using congrArg Instr.op hi

/-- A word that fits a command decodes to it. -/
theorem Op.Fits.decode_eq {o : Op} {cw : Reg32} (h : o.Fits cw) : decode cw = .ok (o.instr (fieldA cw) (fieldB cw)) := by
  rw [decode, if_neg (not_not.2 h.z), h.code, decodeOp_code, if_neg fun ⟨h1, hb⟩ => hb (h.b h1),
    if_neg fun ⟨h0, ha⟩ => ha (h.a h0)]

/-- A word that decodes fits the command it decodes to, and its operands are the word's. -/
theorem decode_eq_ok {cw : Reg32} {i : Instr} (h : decode cw = .ok i) :
    i.op.Fits cw ∧ i = i.op.instr (fieldA cw) (fieldB cw) := by
  unfold decode at h
  split at h
  · cases h
  next hz =>
  by_cases hop : ∃ o : Op, fieldOP cw = o.code
  · obtain ⟨o, ho⟩ := hop
    rw [ho, decodeOp_code] at h
    split at h
    · cases h
    next hb =>
    split at h
    · cases h
    next ha =>
    cases h
    rw [op_instr]
    exact ⟨⟨not_not.1 hz, ho, fun h1 => by_contra fun hne => hb ⟨h1, hne⟩,
      fun h0 => by_contra fun hne => ha ⟨h0, hne⟩⟩, rfl⟩
  · rw [decodeOp_unknown (not_exists.1 hop)] at h
    cases h

/-- A word decodes to a command of the name `o` exactly when it fits `o`. -/
theorem exists_decode_eq_ok_iff {cw : Reg32} {o : Op} : (∃ i, decode cw = .ok i ∧ i.op = o) ↔ o.Fits cw := by
  constructor
  · rintro ⟨i, hd, rfl⟩
    exact (decode_eq_ok hd).1
  · exact fun h => ⟨_, h.decode_eq, op_instr _ _ _⟩

/-- Every command's word decodes to the command: the laws of the single commands, taken together. -/
theorem decode_encode (i : Instr) : decode (encode i) = .ok i := by
  have h : Laws.RoundTrip.Statement i :=
    match i with
    | .nop => Laws.RoundTrip.nop
    | .errclr => Laws.RoundTrip.errclr
    | .zeroize => Laws.RoundTrip.zeroize
    | .wclr => Laws.RoundTrip.wclr
    | .lookup => Laws.RoundTrip.lookup
    | .fetch j => Laws.RoundTrip.fetch j
    | .pack => Laws.RoundTrip.pack
    | .unpack => Laws.RoundTrip.unpack
    | .embed k => Laws.RoundTrip.embed k
    | .extract => Laws.RoundTrip.extract
    | .fadd => Laws.RoundTrip.fadd
    | .fmul => Laws.RoundTrip.fmul
    | .finv => Laws.RoundTrip.finv
    | .split t n => Laws.RoundTrip.split t n
    | .combine t => Laws.RoundTrip.combine t
    | .ldsec => Laws.RoundTrip.ldsec
    | .stsec => Laws.RoundTrip.stsec
    | .ldsh k x => Laws.RoundTrip.ldsh k x
    | .stsh k => Laws.RoundTrip.stsh k
  exact h.1

/-- A word that decodes is the word of what it decodes to. -/
theorem encode_of_decode {cw : Reg32} {i : Instr} (h : decode cw = .ok i) : encode i = cw := by
  obtain ⟨hfits, hi⟩ := decode_eq_ok h
  rw [hi]
  exact hfits.encode_eq

/-- Settles O1, command by command. -/
theorem decodeInvertsEncode : Obligations.DecodeInvertsEncode := decode_encode

/-- Settles O2: the decoder checks every field that the command does not take as an operand. -/
theorem encodeInvertsDecode : Obligations.EncodeInvertsDecode := fun _ _ => encode_of_decode

/-- Settles O5: each of the fifteen words is evaluated. -/
theorem specWordsDecodeAsWritten : Obligations.SpecWordsDecodeAsWritten :=
  ⟨rfl, rfl, rfl, rfl, rfl, rfl, rfl, rfl, rfl, rfl, rfl, rfl, rfl, rfl, rfl⟩

/-! ### The opcode table -/

/-- A command word with its fields given: the reserved field Z is 0 (R90, R92). -/
theorem eq_commandWord_iff {cw : Reg32} {op a b : Byte} :
    cw = commandWord op a b ↔ fieldZ cw = 0 ∧ fieldOP cw = op ∧ fieldA cw = a ∧ fieldB cw = b := by
  constructor
  · rintro rfl
    exact ⟨fieldZ_commandWord _ _ _, fieldOP_commandWord _ _ _, fieldA_commandWord _ _ _, fieldB_commandWord _ _ _⟩
  · rintro ⟨hz, rfl, rfl, rfl⟩
    exact (commandWord_of_fields cw hz).symm

/-- The row of a command: the mask covers every field but the operands the command has, the match is the opcode alone (R92). -/
def Op.row (o : Op) : OpcodeRow where
  op := o
  mask := if o.arity = 0 then 0xFFFFFFFF else if o.arity ≤ 1 then 0xFFFF00FF else 0xFF0000FF
  pattern := commandWord o.code 0 0

theorem row_mem_opcodeTable (o : Op) : o.row ∈ opcodeTable := by cases o <;> decide

theorem eq_row_of_mem_opcodeTable {row : OpcodeRow} (h : row ∈ opcodeTable) : row = row.op.row := by
  have hall : ∀ r ∈ opcodeTable, r = r.op.row := by decide
  exact hall row h

theorem fieldZ_mask (o : Op) : fieldZ o.row.mask = 0xFF := by cases o <;> rfl

theorem fieldOP_mask (o : Op) : fieldOP o.row.mask = 0xFF := by cases o <;> rfl

theorem fieldA_mask (o : Op) : fieldA o.row.mask = if o.arity = 0 then 0xFF else 0 := by cases o <;> rfl

theorem fieldB_mask (o : Op) : fieldB o.row.mask = if o.arity ≤ 1 then 0xFF else 0 := by cases o <;> rfl

theorem fieldZ_and (x y : Reg32) : fieldZ (x &&& y) = fieldZ x &&& fieldZ y := BitVec.extractLsb'_and

theorem fieldOP_and (x y : Reg32) : fieldOP (x &&& y) = fieldOP x &&& fieldOP y := BitVec.extractLsb'_and

theorem fieldA_and (x y : Reg32) : fieldA (x &&& y) = fieldA x &&& fieldA y := BitVec.extractLsb'_and

theorem fieldB_and (x y : Reg32) : fieldB (x &&& y) = fieldB x &&& fieldB y := BitVec.extractLsb'_and

/-- A byte is kept whole under the mask that covers it. -/
theorem and_full_mask (x : Byte) : x &&& 0xFF = x := BitVec.and_allOnes

/-- A byte under a mask that covers it only if `p` is 0 when the byte is 0 or not covered. -/
theorem and_mask_eq_zero_iff (x : Byte) (p : Prop) [Decidable p] :
    x &&& (if p then 0xFF else 0) = 0 ↔ (p → x = 0) := by
  by_cases hp : p
  · rw [if_pos hp, and_full_mask]
    exact ⟨fun hx _ => hx, fun h => h hp⟩
  · simp [hp]

/-- The mask and match columns of R92 test what R94 lists: a word selects the row of a command exactly when it fits it. -/
theorem row_selects_iff {o : Op} {cw : Reg32} : o.row.selects cw = true ↔ o.Fits cw := by
  have hpat : o.row.pattern = commandWord o.code 0 0 := rfl
  rw [OpcodeRow.selects, beq_iff_eq, hpat, eq_commandWord_iff, fieldZ_and, fieldZ_mask, and_full_mask, fieldOP_and,
    fieldOP_mask, and_full_mask, fieldA_and, fieldA_mask, and_mask_eq_zero_iff, fieldB_and, fieldB_mask,
    and_mask_eq_zero_iff]
  exact ⟨fun ⟨hz, hop, ha, hb⟩ => ⟨hz, hop, hb, ha⟩, fun ⟨hz, hop, hb, ha⟩ => ⟨hz, hop, ha, hb⟩⟩

/-- The same for a row as the table lists it. -/
theorem selects_iff_of_mem {row : OpcodeRow} {cw : Reg32} (h : row ∈ opcodeTable) :
    row.selects cw = true ↔ row.op.Fits cw := by
  rw [eq_row_of_mem_opcodeTable h]
  exact row_selects_iff

/-- A word fits one command at most. -/
theorem Op.Fits.unique {o o' : Op} {cw : Reg32} (h : o.Fits cw) (h' : o'.Fits cw) : o = o' :=
  code_injective (h.code.symm.trans h'.code)

/-- Settles O3: a word selects a row, and decodes to its command, exactly when it fits that command. -/
theorem opcodeRowsSelectTheirCommands : Obligations.OpcodeRowsSelectTheirCommands := by
  refine ⟨fun cw row hrow => (selects_iff_of_mem hrow).trans exists_decode_eq_ok_iff.symm,
    fun cw a ha b hb hsa hsb => ?_⟩
  have hop : a.op = b.op := ((selects_iff_of_mem ha).1 hsa).unique ((selects_iff_of_mem hb).1 hsb)
  rw [eq_row_of_mem_opcodeTable ha, hop, ← eq_row_of_mem_opcodeTable hb]

/-! ### Illegal words -/

/-- A word matches no row of the table exactly when it fits no command. -/
theorem no_row_selects_iff {cw : Reg32} :
    (∀ row ∈ opcodeTable, row.selects cw = false) ↔ ∀ o : Op, ¬ o.Fits cw := by
  constructor
  · intro h o hfits
    exact Bool.false_ne_true ((h o.row (row_mem_opcodeTable o)).symm.trans (row_selects_iff.2 hfits))
  · intro h row hrow
    exact Bool.eq_false_iff.2 fun hs => h row.op ((selects_iff_of_mem hrow).1 hs)

/-- A word that matches no row does not decode (R94). -/
theorem decode_eq_error_of_no_row {cw : Reg32} (h : ∀ row ∈ opcodeTable, row.selects cw = false) :
    ∃ e, decode cw = .error e := by
  cases hd : decode cw with
  | error e => exact ⟨e, rfl⟩
  | ok i => exact absurd (decode_eq_ok hd).1 (no_row_selects_iff.1 h i.op)

/-- A word fits no command exactly when one of the conditions (a) to (d) of R94 holds. -/
theorem fits_no_command_iff {cw : Reg32} :
    (∀ o : Op, ¬ o.Fits cw) ↔
      fieldZ cw ≠ 0 ∨ (∀ o : Op, fieldOP cw ≠ o.code) ∨
        (∃ o : Op, fieldOP cw = o.code ∧ o.arity ≤ 1 ∧ fieldB cw ≠ 0) ∨
        (∃ o : Op, fieldOP cw = o.code ∧ o.arity = 0 ∧ fieldA cw ≠ 0) := by
  constructor
  · intro h
    by_contra hlegal
    simp only [not_or, not_exists, not_forall, not_and, not_not] at hlegal
    obtain ⟨hz, ⟨o, hop⟩, hb, ha⟩ := hlegal
    exact h o ⟨hz, hop, hb o hop, ha o hop⟩
  · rintro (hz | hop | ⟨o', hop, h1, hb⟩ | ⟨o', hop, h0, ha⟩) o hfits
    · exact hz hfits.z
    · exact hop o hfits.code
    · obtain rfl := code_injective (hfits.code.symm.trans hop)
      exact hb (hfits.b h1)
    · obtain rfl := code_injective (hfits.code.symm.trans hop)
      exact ha (hfits.a h0)

end Sys2Proof
end

section
/-!
SUPPORT. The engine's step on a command word, legal or not, latched or not, and that every command completes
(spec/30_encoding.md rules R94, R95 and R99).
-/

namespace Sys2Proof.Machine

/-! ### The engine's step on a command word -/

/-- A word that decodes runs its command (R95). -/
theorem runCommand_of_ok {cw : Reg32} {i : Instr} (s : State) (h : decode cw = .ok i) : runCommand cw s = exec i s := by
  rw [runCommand, h]

/-- A word that does not decode raises IllegalCommandError, unless the latch is set (R94, R95). -/
theorem runCommand_of_error {cw : Reg32} {e : DecodeError} (s : State) (h : decode cw = .error e) :
    runCommand cw s = unlessLatched s (raise .illegalCommand cw s) := by
  rw [runCommand, h]

/-- A word that matches no row raises IllegalCommandError while the latch is clear (R94). -/
theorem runCommand_of_no_row {cw : Reg32} {s : State} (h : ∀ row ∈ opcodeTable, row.selects cw = false)
    (hl : s.errcode = 0) : runCommand cw s = .next (latchError .illegalCommand cw s) := by
  obtain ⟨e, he⟩ := decode_eq_error_of_no_row h
  exact (runCommand_of_error s he).trans (unlessLatched_clear hl)

/-- While the latch is set every word but those of ERRCLR and ZEROIZE is dropped (R95, R226). -/
theorem runCommand_latched {cw : Reg32} {s : State} (hl : s.errcode ≠ 0) (hc : cw ≠ encode .errclr)
    (hz : cw ≠ encode .zeroize) : runCommand cw s = .next s := by
  cases hd : decode cw with
  | error e => exact (runCommand_of_error s hd).trans (unlessLatched_set hl)
  | ok i =>
    have hi : ¬ RunsLatched i := by
      rintro (rfl | rfl)
      · exact hc (encode_of_decode hd).symm
      · exact hz (encode_of_decode hd).symm
    exact (runCommand_of_ok s hd).trans (exec_latched hi hl)

/-- A command word either succeeds, or raises and then writes the latch alone, ERRINFO being the word (R95, R224). -/
theorem runCommand_succeeds_or_raises {cw : Reg32} {s t : State} (hl : s.errcode = 0) (h : runCommand cw s = .next t) :
    t.errcode = 0 ∨ ∃ e, t = latchError e cw s := by
  rcases runCommand_next h with ⟨i, hd, hx⟩ | ⟨-, -, ⟨hset, -⟩ | ⟨-, rfl⟩⟩
  · rcases exec_next hx with ⟨hset, -, -⟩ | ⟨-, e, -, rfl⟩ | ⟨-, heff⟩
    · exact absurd hl hset
    · exact .inr ⟨e, by rw [encode_of_decode hd]⟩
    · exact .inl ((effect_keeps heff).1 hl)
  · exact absurd hl hset
  · exact .inr ⟨_, rfl⟩

/-- Settles O4: a word matches no row when it fits no command, and then it does not decode. -/
theorem illegalWordRaisesIllegalCommand : Obligations.IllegalWordRaisesIllegalCommand := by
  refine fun cw => ⟨no_row_selects_iff.trans fits_no_command_iff, fun h s => ⟨runCommand_of_no_row h, fun hl => ?_⟩⟩
  obtain ⟨e, he⟩ := decode_eq_error_of_no_row h
  exact (runCommand_of_error s he).trans (unlessLatched_set hl)

/-- Settles O8, branch by branch: the latch, an illegal word, a legal word, and how either ends. -/
theorem engineStepFollowsItsPseudocode : Obligations.EngineStepFollowsItsPseudocode := by
  refine fun cw s => ⟨fun hl => ?_, fun hl h => runCommand_of_no_row h hl, fun _ i hd => runCommand_of_ok s hd,
    fun hl t h => (runCommand_succeeds_or_raises hl h).imp id ?_⟩
  · split
    · next hc => exact hc ▸ runCommand_of_ok s (decode_encode .errclr)
    · next hc =>
      split
      · next hz => exact hz ▸ runCommand_of_ok s (decode_encode .zeroize)
      · next hz => exact runCommand_latched hl hc hz
  · rintro ⟨e, rfl⟩
    rfl

/-! ### Every command completes -/

/-- The answer is a next state: the command completes (R99). -/
def Completes (a : Answer) : Prop := ∃ t, a = .next t

theorem next_completes (t : State) : Completes (.next t) := ⟨t, rfl⟩

theorem raise_completes (e : Err) (cw : Reg32) (s : State) : Completes (raise e cw s) := next_completes _

theorem unlessLatched_completes {s : State} {k : Answer} (h : Completes k) : Completes (unlessLatched s k) := by
  by_cases hl : s.errcode = 0
  · rwa [unlessLatched_clear hl]
  · rw [unlessLatched_set hl]
    exact next_completes s

/-- A check whose failure raises an error completes if what follows it does. -/
theorem check_completes {p : Prop} [Decidable p] {e : Err} {cw : Reg32} {s : State} {k : Answer} (h : Completes k) :
    Completes (if p then raise e cw s else k) := by
  split
  · exact raise_completes e cw s
  · exact h

/-- SPLIT completes when the random source can answer its draws (R70, R163). -/
theorem execSplit_completes {a n : Byte} {s : State} (h : s.CanDraw (16 * (a.toNat - 1))) :
    Completes (execSplit a n s) := by
  obtain ⟨⟨r, s1⟩, hr⟩ := Option.isSome_iff_exists.1 (rngDraws_isSome.2 h)
  refine unlessLatched_completes (check_completes ?_)
  rw [operand, hr]
  exact next_completes _

/-- Every command completes, provided, for SPLIT, that its draws are answered (R99). -/
theorem exec_completes (i : Instr) (s : State)
    (h : ∀ a n, i = .split a n → s.CanDraw (16 * (a.toNat - 1))) : Completes (exec i s) :=
  match i with
  | .errclr | .zeroize => next_completes _
  | .nop | .wclr | .pack | .unpack | .fadd | .fmul | .stsec => unlessLatched_completes (next_completes _)
  | .lookup | .fetch _ | .extract | .finv | .ldsec | .stsh _ =>
    unlessLatched_completes (check_completes (next_completes _))
  | .embed _ | .ldsh _ _ => unlessLatched_completes (check_completes (check_completes (next_completes _)))
  | .combine _ =>
    unlessLatched_completes (check_completes (check_completes (check_completes (check_completes (next_completes _)))))
  | .split a n => execSplit_completes (h a n rfl)

/-- Settles O20: beside the draws of SPLIT a command only checks, raises and writes. -/
theorem everyCommandCompletes : Obligations.EveryCommandCompletes := exec_completes

end Sys2Proof.Machine
end

section
/-!
SUPPORT. The mnemonic codec (spec/40_mnemonic_codec.md rules R110 to R119): what each of its commands answers, the bits
PACK and UNPACK write, and that either of the two undoes the other as far as whole bytes and whole indices reach.
-/

namespace Sys2Proof.Machine

/-! ### The codec buffers as lists -/

/-- A list copied into a buffer that can hold it is read back whole. -/
theorem take_toList_ofFn_getD {α : Type} {n : Nat} {xs : List α} (d : α) (h : xs.length ≤ n) :
    (Vector.ofFn fun i : Fin n => xs.getD i d).toList.take xs.length = xs := by
  refine List.ext_getElem (by simpa using h) fun p _ hp => ?_
  simp [hp]

/-- Byte p of the codec bytes is that of CB below BLEN, and none from there on (R25). -/
theorem codecBytes_getD (s : State) (p : Nat) :
    s.codecBytes.getD p 0 = if p < s.blen.toNat then s.cb.toList.getD p 0 else 0 := by
  rw [State.codecBytes, List.getD_eq_getElem?_getD, List.getElem?_take]
  split
  · rw [List.getD_eq_getElem?_getD]
  · rfl

/-- Index j of the codec words is that of W below WCNT, and none from there on (R26). -/
theorem codecWords_getD (s : State) (j : Nat) :
    s.codecWords.getD j 0 = if j < s.wcnt.toNat then s.w.toList.getD j 0 else 0 := by
  rw [State.codecWords, List.getD_eq_getElem?_getD, List.getElem?_take]
  split
  · rw [List.getD_eq_getElem?_getD]
  · rfl

/-- An entry of a buffer, read from its list. -/
theorem toList_getD {α : Type} {n : Nat} (x : Vector α n) (d : α) (p : Fin n) : x.toList.getD p d = x[p] := by
  simp

/-- The bitstream of the codec bytes, bit by bit in CB (R25, R110). -/
theorem byteStreamBit_codecBytes (s : State) (q : Nat) :
    byteStreamBit s.codecBytes q =
      (decide (q < 8 * s.blen.toNat) && (s.cb.toList.getD (q / 8) 0).getMsbD (q % 8)) := by
  rw [byteStreamBit_eq, codecBytes_getD]
  by_cases hq : q < 8 * s.blen.toNat
  · rw [if_pos (by omega), decide_eq_true hq, Bool.true_and]
  · rw [if_neg (by omega), decide_eq_false hq, Bool.false_and]
    exact BitVec.getMsbD_zero

/-- The bitstream of the codec words, bit by bit in W (R26, R110). -/
theorem wordStreamBit_codecWords (s : State) (q : Nat) :
    wordStreamBit s.codecWords q =
      (decide (q < 11 * s.wcnt.toNat) && (s.w.toList.getD (q / 11) 0).getMsbD (q % 11)) := by
  rw [wordStreamBit_eq, codecWords_getD]
  by_cases hq : q < 11 * s.wcnt.toNat
  · rw [if_pos (by omega), decide_eq_true hq, Bool.true_and]
  · rw [if_neg (by omega), decide_eq_false hq, Bool.false_and]
    exact BitVec.getMsbD_zero

/-! ### WCLR, LOOKUP and FETCH -/

/-- Settles O30: WCLR's effect, read field by field. -/
theorem wclrClearsTheWordBuffer : Obligations.WclrClearsTheWordBuffer := fun _ hl =>
  ⟨_, exec_of_effect (.inl hl) rfl, fun _ => Vector.getElem_replicate _, rfl, rfl⟩

/-- A LOOKUP with the word buffer full raises MalformedWordError, whatever the dictionary holds (R114). -/
theorem exec_lookup_of_full {s : State} (hl : s.errcode = 0) (hw : s.wcnt = 12) :
    exec .lookup s = raise .malformedWord (encode .lookup) s :=
  (unlessLatched_clear hl).trans (if_pos hw)

/-- A LOOKUP of a word that is no entry of the ROM raises UnknownWordError (R114). -/
theorem exec_lookup_of_absent {s : State} (hl : s.errcode = 0) (hw : s.wcnt ≠ 12)
    (hx : ∀ i : Fin 2048, s.rom[i] ≠ s.wordin) : exec .lookup s = raise .unknownWord (encode .lookup) s := by
  refine (unlessLatched_clear hl).trans ?_
  rw [if_neg hw, romFind_none.2 hx]
  rfl

/-- A LOOKUP with room in the word buffer appends the least index whose entry is the word (R114). -/
theorem exec_lookup_of_least {s : State} {i : Fin 2048} (hl : s.errcode = 0) (hw : s.wcnt ≠ 12)
    (hi : s.rom[i] = s.wordin) (hleast : ∀ i' : Fin 2048, i' < i → s.rom[i'] ≠ s.wordin) :
    exec .lookup s =
      .next (putWords (s.w.setIfInBounds s.wcnt.toNat (BitVec.ofNat 11 i)) (s.wcnt + 1) s) :=
  exec_of_effect (.inl hl) ⟨hw, _, romFind_some hi hleast, rfl⟩

/-- A write to an entry there is needs no bounds check. -/
theorem setIfInBounds_eq_set {α : Type} {n : Nat} (x : Vector α n) (j : Fin n) (a : α) :
    x.setIfInBounds j a = x.set j a := by
  refine Vector.ext fun m hm => ?_
  rw [Vector.getElem_setIfInBounds, Vector.getElem_set]

/-- Settles O31, one lemma for each of the three outcomes. -/
theorem lookupAppendsTheLeastMatchingIndex : Obligations.LookupAppendsTheLeastMatchingIndex := by
  refine fun s hl _ => ⟨exec_lookup_of_full hl, exec_lookup_of_absent hl, fun i j hj hi hleast => ?_⟩
  have hw : s.wcnt ≠ 12 := fun h => by
    have hlt : s.wcnt.toNat < 12 := hj ▸ j.isLt
    rw [h] at hlt
    exact absurd hlt (by decide)
  rw [exec_lookup_of_least hl hw hi hleast, ← hj, setIfInBounds_eq_set]
  rfl

/-- The command word of FETCH j (R92, R115). -/
theorem encode_fetch (j : Byte) : encode (.fetch j) = 0x00000012#32 ||| (j.setWidth 32 <<< 8) :=
  (commandWord_eq_or 0x12 j 0).trans BitVec.or_zero

/-- A FETCH of a position with no word raises BadParameterError (R115). -/
theorem exec_fetch_of_ge {s : State} {j : Byte} (hl : s.errcode = 0) (hj : s.wcnt.toNat ≤ j.toNat) :
    exec (.fetch j) s = raise .badParameter (encode (.fetch j)) s :=
  (unlessLatched_clear hl).trans (if_pos hj)

/-- A FETCH of a position with a word delivers the word's entry of the ROM (R115). -/
theorem exec_fetch_of_lt {s : State} {j : Byte} (hl : s.errcode = 0) (hj : j.toNat < s.wcnt.toNat) :
    exec (.fetch j) s = .next (putWordout (romRead s.rom (wordAt s.w j.toNat)) s) :=
  exec_of_effect (.inl hl) ⟨hj, rfl⟩

/-- Settles O32, one branch of FETCH for each outcome. -/
theorem fetchDeliversTheRomEntry : Obligations.FetchDeliversTheRomEntry := by
  refine fun s j hl => ⟨fun m hm hj => ?_, fun hj => ?_⟩
  · have hword : wordAt s.w j.toNat = s.w[m] := by rw [wordAt, ← hm, toList_getD]
    rw [exec_fetch_of_lt hl hj, hword]
    rfl
  · rw [exec_fetch_of_ge hl hj, encode_fetch]
    rfl

/-! ### PACK -/

/-- The state PACK leaves (R116). -/
def State.packed (s : State) : State :=
  putWords (wordBufOfList (pack s.codecBytes)) (BitVec.ofNat 4 (pack s.codecBytes).length) s

theorem exec_pack {s : State} (hl : s.errcode = 0) : exec .pack s = .next s.packed :=
  exec_of_effect (.inl hl) rfl

/-- Any codec bytes pack into at most twelve indices (R116). -/
theorem length_pack_codecBytes_le (s : State) : (pack s.codecBytes).length ≤ 12 := by
  rw [pack_length, codecBytes_length]
  exact packedLength_le (Nat.min_le_right ..)

@[simp] theorem packed_wcnt_toNat (s : State) : s.packed.wcnt.toNat = (pack s.codecBytes).length := by
  have hlen := length_pack_codecBytes_le s
  exact (BitVec.toNat_ofNat ..).trans (Nat.mod_eq_of_lt (by omega))

/-- The word count after a PACK is ceil(8 BLEN / 11) (R116). -/
theorem packed_wcnt_eq {s : State} (hb : s.blen.toNat ≤ 16) : s.packed.wcnt.toNat = packedLength s.blen.toNat := by
  rw [packed_wcnt_toNat, pack_length, codecBytes_length, Nat.min_eq_left hb]

/-- An entry of W after a PACK is the packing's, 0 past its end (R116). -/
theorem packed_w (s : State) (j : Fin 12) : s.packed.w[j] = (pack s.codecBytes).getD j 0 :=
  Vector.getElem_ofFn _

/-- The word sequence after a PACK is the packing of the bytes (R116). -/
@[simp] theorem packed_codecWords (s : State) : s.packed.codecWords = pack s.codecBytes := by
  rw [State.codecWords, packed_wcnt_toNat]
  exact take_toList_ofFn_getD 0 (length_pack_codecBytes_le s)

/-- Settles O33: the bits of a packing are those of the bytes' bitstream. -/
theorem packRegroupsTheByteBits : Obligations.PackRegroupsTheByteBits := by
  refine fun s hl hb => ⟨s.packed, exec_pack hl, rfl, packed_wcnt_eq hb, fun j t => ?_⟩
  rw [packed_w, pack_bit _ _ t.isLt, byteStreamBit_codecBytes]

/-! ### UNPACK -/

/-- The state UNPACK leaves (R117). -/
def State.unpacked (s : State) : State :=
  putCodec (chunkOfList (unpack s.codecWords)) (BitVec.ofNat 5 (unpack s.codecWords).length) s

theorem exec_unpack {s : State} (hl : s.errcode = 0) : exec .unpack s = .next s.unpacked :=
  exec_of_effect (.inl hl) rfl

/-- Any codec words unpack into at most sixteen bytes (R117). -/
theorem length_unpack_codecWords_le (s : State) : (unpack s.codecWords).length ≤ 16 := by
  rw [unpack_length, codecWords_length]
  exact unpackedLength_le (Nat.min_le_right ..)

@[simp] theorem unpacked_blen_toNat (s : State) : s.unpacked.blen.toNat = (unpack s.codecWords).length := by
  have hlen := length_unpack_codecWords_le s
  exact (BitVec.toNat_ofNat ..).trans (Nat.mod_eq_of_lt (by omega))

/-- The byte count after an UNPACK is floor(11 WCNT / 8) (R117). -/
theorem unpacked_blen_eq {s : State} (hw : s.wcnt.toNat ≤ 12) :
    s.unpacked.blen.toNat = unpackedLength s.wcnt.toNat := by
  rw [unpacked_blen_toNat, unpack_length, codecWords_length, Nat.min_eq_left hw]

/-- A byte of CB after an UNPACK is the unpacking's, 0 past its end (R117). -/
theorem unpacked_cb (s : State) (p : Fin 16) : s.unpacked.cb[p] = (unpack s.codecWords).getD p 0 :=
  Vector.getElem_ofFn _

/-- The byte sequence after an UNPACK is the unpacking of the words (R117). -/
@[simp] theorem unpacked_codecBytes (s : State) : s.unpacked.codecBytes = unpack s.codecWords := by
  rw [State.codecBytes, unpacked_blen_toNat]
  exact take_toList_ofFn_getD 0 (length_unpack_codecWords_le s)

/-- Settles O34: the bits of an unpacking are those of the words' bitstream, and a whole byte lies within it. -/
theorem unpackRegroupsTheWordBits : Obligations.UnpackRegroupsTheWordBits := by
  refine fun s hl hw => ⟨s.unpacked, exec_unpack hl, rfl, unpacked_blen_eq hw, fun p t => ?_⟩
  rw [unpacked_cb, unpack_bit _ _ t.isLt, codecWords_length, Nat.min_eq_left hw, wordStreamBit_codecWords]
  by_cases hp : p.val < 11 * s.wcnt.toNat / 8
  · have hq : 8 * p.val + t.val < 11 * s.wcnt.toNat := by omega
    rw [unpackedLength, decide_eq_true hq, Bool.true_and]
  · rw [unpackedLength, decide_eq_false hp, Bool.false_and, Bool.false_and]

/-! ### Bytes to words and back -/

/-- Lists of one length that agree at every position are the same. -/
theorem list_eq_of_getD {α : Type} {l l' : List α} (d : α) (hlen : l.length = l'.length)
    (h : ∀ p, l.getD p d = l'.getD p d) : l = l' := by
  refine List.ext_getElem hlen fun p hp hp' => ?_
  rw [← List.getD_eq_getElem l d hp, ← List.getD_eq_getElem l' d hp', h]

/-- Packing loses no whole byte (R111, R112). -/
theorem length_le_unpackedLength_packedLength (n : Nat) : n ≤ unpackedLength (packedLength n) := by
  unfold unpackedLength packedLength; omega

/-- Unpacking a packing gives every byte again, and 0 past them: the fill is zero bits (R111, R118). -/
theorem unpack_pack_getD (b : List Byte) (p : Nat) : (unpack (pack b)).getD p 0 = b.getD p 0 := by
  by_cases hp : p < unpackedLength (packedLength b.length)
  · refine BitVec.eq_of_getMsbD_eq fun t ht => ?_
    rw [unpack_bit _ _ ht, pack_length, decide_eq_true hp, Bool.true_and, wordStreamBit_pack, byteStreamBit_eq,
      show (8 * p + t) / 8 = p by omega, show (8 * p + t) % 8 = t by omega]
  · have hlen := length_le_unpackedLength_packedLength b.length
    rw [List.getD_eq_default _ _ (by simpa using hp), List.getD_eq_default _ _ (by omega)]

/-- Unpacking a packing gives a byte more exactly when the fill is a whole byte or longer (R118). -/
theorem unpackedLength_packedLength (n : Nat) :
    unpackedLength (packedLength n) = if 11 * ((8 * n + 10) / 11) - 8 * n < 8 then n else n + 1 := by
  unfold unpackedLength packedLength
  split <;> omega

/-- A byte 0x00 at the end of a sequence is what the positions past the end already read as. -/
theorem append_zero_getD (b : List Byte) (p : Nat) : (b ++ [0]).getD p 0 = b.getD p 0 := by
  rcases Nat.lt_or_ge p b.length with hp | hp
  · rw [List.getD_append _ _ _ _ hp]
  · rw [List.getD_append_right _ _ _ _ hp, List.getD_eq_default _ _ hp]
    cases p - b.length <;> rfl

/-- Unpacking a packing gives the bytes again, with a 0x00 after them when the fill is a byte or longer (R118). -/
theorem unpack_pack (b : List Byte) :
    unpack (pack b) = if 11 * ((8 * b.length + 10) / 11) - 8 * b.length < 8 then b else b ++ [0] := by
  have hlen : (unpack (pack b)).length = unpackedLength (packedLength b.length) := by rw [unpack_length, pack_length]
  rw [unpackedLength_packedLength] at hlen
  split
  · next hfill => exact list_eq_of_getD 0 (hlen.trans (if_pos hfill)) (unpack_pack_getD b)
  · next hfill =>
    rw [if_neg hfill] at hlen
    refine list_eq_of_getD 0 (by simpa using hlen) fun p => ?_
    rw [unpack_pack_getD, append_zero_getD]

/-- CB after PACK and UNPACK: the bytes below BLEN as they were, the others 0 (R118). -/
theorem packed_unpacked_cb (s : State) (p : Fin 16) :
    s.packed.unpacked.cb[p] = if p.val < s.blen.toNat then s.cb[p] else 0 := by
  rw [unpacked_cb, packed_codecWords, unpack_pack_getD, codecBytes_getD, toList_getD]

/-- BLEN after PACK and UNPACK (R118). -/
theorem packed_unpacked_blen_toNat {s : State} (hb : s.blen.toNat ≤ 16) :
    s.packed.unpacked.blen.toNat = unpackedLength (packedLength s.blen.toNat) := by
  rw [unpacked_blen_toNat, packed_codecWords, unpack_length, pack_length, codecBytes_length, Nat.min_eq_left hb]

/-- The lengths of rule R118 that come back as they were. -/
theorem unpackedLength_packedLength_of_short_fill :
    ∀ n ∈ [0, 1, 2, 4, 5, 6, 8, 9, 11, 12, 13, 15, 16], unpackedLength (packedLength n) = n := by decide

/-- The lengths of rule R118 that come back one longer. -/
theorem unpackedLength_packedLength_of_long_fill :
    ∀ n ∈ [3, 7, 10, 14], unpackedLength (packedLength n) = n + 1 := by decide

/-- Settles O35: the bytes come back by `unpack_pack_getD`, and BLEN by the length of the fill. -/
theorem unpackAfterPackRestoresTheBytes : Obligations.UnpackAfterPackRestoresTheBytes := by
  refine ⟨unpack_pack, fun s hl hb => ⟨s.packed, s.packed.unpacked, exec_pack hl, exec_unpack hl,
    fun p hp => ?_, fun p hp => ?_, fun hn => ?_, fun hn => ?_⟩⟩
  · rw [packed_unpacked_cb, if_pos hp]
  · rw [packed_unpacked_cb, if_neg (by omega)]
  · refine BitVec.eq_of_toNat_eq ?_
    rw [packed_unpacked_blen_toNat hb, unpackedLength_packedLength_of_short_fill _ hn]
  · have hlen := packed_unpacked_blen_toNat hb
    rw [unpackedLength_packedLength_of_long_fill _ hn] at hlen
    bv_omega

/-! ### Words to bytes and back -/

/-- Packing an unpacking gives as many indices again (R119). -/
theorem packedLength_unpackedLength (w : Nat) : packedLength (unpackedLength w) = w := by
  unfold packedLength unpackedLength; omega

/-- Packing an unpacking keeps the bits of the whole bytes and makes the bits after them 0 (R112, R119). -/
theorem pack_unpack_bit (x : List WordIdx) (j : Nat) {t : Nat} (ht : t < 11) :
    ((pack (unpack x)).getD j 0).getMsbD t =
      (decide ((11 * j + t) / 8 < unpackedLength x.length) && (x.getD j 0).getMsbD t) := by
  rw [pack_bit _ _ ht, byteStreamBit_unpack, wordStreamBit_eq, show (11 * j + t) / 11 = j by omega,
    show (11 * j + t) % 11 = t by omega]

/-- Every index but the last comes back whole: fewer than eight bits are dropped (R119). -/
theorem pack_unpack_getD {x : List WordIdx} {j : Nat} (hj : j + 1 < x.length) :
    (pack (unpack x)).getD j 0 = x.getD j 0 := by
  refine BitVec.eq_of_getMsbD_eq fun t ht => ?_
  have hwhole : (11 * j + t) / 8 < unpackedLength x.length := by unfold unpackedLength; omega
  rw [pack_unpack_bit _ _ ht, decide_eq_true hwhole, Bool.true_and]

/-- The low 11w mod 8 bits of the last index come back as 0, the others as they were (R119). -/
theorem pack_unpack_last_bit {x : List WordIdx} {j : Nat} (hj : j + 1 = x.length) {b : Nat} (hb : b < 11) :
    ((pack (unpack x)).getD j 0).getLsbD b = (decide (11 * x.length % 8 ≤ b) && (x.getD j 0).getLsbD b) := by
  have hwhole : (11 * j + (11 - 1 - b)) / 8 < unpackedLength x.length ↔ 11 * x.length % 8 ≤ b := by
    unfold unpackedLength; omega
  rw [BitVec.getLsbD_eq_getMsbD, BitVec.getLsbD_eq_getMsbD, decide_eq_true hb, Bool.true_and, Bool.true_and,
    pack_unpack_bit _ _ (by omega), decide_eq_decide.2 hwhole]

/-- With twelve words every entry of W is one of the codec words (R26). -/
theorem codecWords_getD_of_full {s : State} (hw : s.wcnt = 12) (j : Fin 12) : s.codecWords.getD j 0 = s.w[j] := by
  have hj : j.val < s.wcnt.toNat := hw ▸ j.isLt
  rw [codecWords_getD, if_pos hj, toList_getD]

theorem codecWords_length_of_full {s : State} (hw : s.wcnt = 12) : s.codecWords.length = 12 := by
  rw [codecWords_length, hw]
  rfl

/-- W after UNPACK and PACK is the packing of the unpacking of the words (R119). -/
theorem unpacked_packed_w (s : State) (j : Fin 12) :
    s.unpacked.packed.w[j] = (pack (unpack s.codecWords)).getD j 0 := by
  rw [packed_w, unpacked_codecBytes]

/-- The mask of rule R119 clears the four low bits of an index. -/
theorem getLsbD_0x7F0 (b : Nat) (hb : b < 11) : (0x7F0 : WordIdx).getLsbD b = decide (4 ≤ b) := by
  have hall : ∀ b < 11, (0x7F0 : WordIdx).getLsbD b = decide (4 ≤ b) := by decide
  exact hall b hb

/-- Settles O36: `pack_unpack_getD` for the indices before the last, `pack_unpack_last_bit` for the last. -/
theorem packAfterUnpackRestoresTheWords : Obligations.PackAfterUnpackRestoresTheWords := by
  refine ⟨fun x => ⟨?_, fun j => pack_unpack_getD, fun j hj b => pack_unpack_last_bit hj⟩,
    fun s hl hw => ⟨s.unpacked, s.unpacked.packed, exec_unpack hl, exec_pack hl, ?_, fun j hj => ?_, ?_⟩⟩
  · rw [pack_length, unpack_length, packedLength_unpackedLength]
  · refine BitVec.eq_of_toNat_eq ?_
    rw [packed_wcnt_toNat, unpacked_codecBytes, pack_length, unpack_length, packedLength_unpackedLength,
      codecWords_length_of_full hw]
    rfl
  · have hlast : j.val + 1 < s.codecWords.length := by
      rw [codecWords_length_of_full hw]; omega
    rw [unpacked_packed_w, pack_unpack_getD hlast, codecWords_getD_of_full hw]
  · refine BitVec.eq_of_getLsbD_eq fun b hb => ?_
    have hlen := codecWords_length_of_full hw
    have hbit := pack_unpack_last_bit (x := s.codecWords) (j := (11 : Fin 12)) hlen.symm hb
    rw [codecWords_getD_of_full hw, ← unpacked_packed_w, hlen] at hbit
    rw [BitVec.getLsbD_and, getLsbD_0x7F0 b hb, Bool.and_comm]
    exact hbit

end Sys2Proof.Machine
end

section
/-!
SUPPORT. The share-index field (spec/41_sharecoder.md rules R130 to R134): the bits of a last word under EMBED and EXTRACT,
what the two commands answer, and that the payload is the words with the field cleared.
-/

namespace Sys2Proof.Machine

/-- The state a command leaves is the only one it leaves. -/
theorem next_unique {i : Instr} {s t t' : State} (h : exec i s = .next t) (h' : exec i s = .next t') : t = t' :=
  Host.Outcome.next.inj (h.symm.trans h')

/-! ### The field of a last word -/

/-- The model's index field is the low four bits of the word (R130). -/
theorem indexField_eq_setWidth (x : WordIdx) : indexField x = x.setWidth 4 :=
  (BitVec.setWidth_eq_extractLsb' (by decide)).symm

/-- Clearing the field keeps bits [10:4] and makes bits [3:0] 0 (R132). -/
theorem getLsbD_clearIndexField (x : WordIdx) (b : Nat) :
    (clearIndexField x).getLsbD b = (decide (4 ≤ b) && x.getLsbD b) := by
  rw [clearIndexField, BitVec.getLsbD_and, Bool.and_comm]
  by_cases hb : b < 11
  · exact congrArg (· && x.getLsbD b) (getLsbD_0x7F0 b hb)
  · rw [BitVec.getLsbD_of_ge x b (by omega), Bool.and_false, Bool.and_false]

/-- A share index of at most 15 has no bit past the field. -/
theorem getLsbD_index_of_ge {i : Byte} (hi : i.toNat ≤ 15) {b : Nat} (hb : 4 ≤ b) : i.getLsbD b = false := by
  have hlt : i.toNat < 2 ^ b := calc
    i.toNat < 2 ^ 4 := by omega
    _ ≤ 2 ^ b := Nat.pow_le_pow_right (by decide) hb
  exact Nat.testBit_lt_two_pow hlt

/-- Writing an index into the field puts its bits at [3:0] and keeps bits [10:4] (R131). -/
theorem getLsbD_setIndexField (x : WordIdx) {i : Byte} (hi : i.toNat ≤ 15) (b : Nat) :
    (setIndexField x i).getLsbD b = if b < 4 then i.getLsbD b else x.getLsbD b := by
  rw [setIndexField, BitVec.getLsbD_or, getLsbD_clearIndexField, BitVec.getLsbD_setWidth]
  split
  · next hb => simp [show ¬ 4 ≤ b by omega, show b < 11 by omega]
  · next hb => simp [show 4 ≤ b by omega, getLsbD_index_of_ge hi (show 4 ≤ b by omega)]

/-- The field holds the index written into it (R133). -/
theorem indexField_setIndexField (x : WordIdx) {i : Byte} (hi : i.toNat ≤ 15) :
    indexField (setIndexField x i) = i.setWidth 4 := by
  refine BitVec.eq_of_getLsbD_eq fun b hb => ?_
  rw [indexField_eq_setWidth, BitVec.getLsbD_setWidth, BitVec.getLsbD_setWidth, getLsbD_setIndexField x hi, if_pos hb]

/-- Clearing the field forgets what was written into it (R133). -/
theorem clearIndexField_setIndexField (x : WordIdx) {i : Byte} (hi : i.toNat ≤ 15) :
    clearIndexField (setIndexField x i) = clearIndexField x := by
  refine BitVec.eq_of_getLsbD_eq fun b _ => ?_
  rw [getLsbD_clearIndexField, getLsbD_clearIndexField, getLsbD_setIndexField x hi]
  by_cases hb : 4 ≤ b
  · rw [if_neg (by omega)]
  · rw [decide_eq_false hb, Bool.false_and, Bool.false_and]

/-! ### EMBED -/

/-- The state EMBED i leaves (R131). -/
def State.embedded (i : Byte) (s : State) : State :=
  putW (s.w.set 11 (setIndexField s.w[11] i)) s

theorem exec_embed {s : State} {i : Byte} (hl : s.errcode = 0) (h1 : 1 ≤ i.toNat) (h15 : i.toNat ≤ 15)
    (hw : s.wcnt = 12) : exec (.embed i) s = .next (s.embedded i) :=
  exec_of_effect (.inl hl) ⟨h1, h15, hw, rfl⟩

/-- An EMBED of an index outside 1 to 15 raises BadParameterError, whatever the word count (R131). -/
theorem exec_embed_of_bad_index {s : State} {i : Byte} (hl : s.errcode = 0) (hi : i.toNat = 0 ∨ 15 < i.toNat) :
    exec (.embed i) s = raise .badParameter (encode (.embed i)) s := by
  have hbad : operand i < 1 ∨ operand i > 15 := hi.imp_left Nat.lt_one_iff.2
  exact (unlessLatched_clear hl).trans (if_pos hbad)

/-- An EMBED of a share index without twelve words raises MalformedWordError (R131). -/
theorem exec_embed_of_bad_count {s : State} {i : Byte} (hl : s.errcode = 0) (h1 : 1 ≤ i.toNat) (h15 : i.toNat ≤ 15)
    (hw : s.wcnt ≠ 12) : exec (.embed i) s = raise .malformedWord (encode (.embed i)) s := by
  have hgood : ¬ (operand i < 1 ∨ operand i > 15) := not_or.2 ⟨Nat.not_lt.2 h1, Nat.not_lt.2 h15⟩
  exact (unlessLatched_clear hl).trans ((if_neg hgood).trans (if_pos hw))

/-- The command word of EMBED i (R92, R131). -/
theorem encode_embed (i : Byte) : encode (.embed i) = 0x00000018#32 ||| (i.setWidth 32 <<< 8) :=
  (commandWord_eq_or 0x18 i 0).trans BitVec.or_zero

/-- Settles O37, one lemma for each of the three outcomes. -/
theorem embedOverwritesTheIndexField : Obligations.EmbedOverwritesTheIndexField := by
  refine fun s i hl => ⟨fun h1 h15 hw => exec_embed hl h1 h15 hw, fun hi => ?_, fun h1 h15 hw => ?_⟩
  · rw [exec_embed_of_bad_index hl hi, encode_embed]
    rfl
  · rw [exec_embed_of_bad_count hl h1 h15 hw, encode_embed]
    rfl

/-! ### EXTRACT -/

/-- The word buffer with the index field of its last word cleared (R132). -/
def State.clearedWords (s : State) : WordBuf := s.w.set 11 (clearIndexField s.w[11])

/-- The state EXTRACT leaves (R132). -/
def State.extracted (s : State) : State := putIdxr (indexField s.w[11]) (putW s.clearedWords s)

theorem exec_extract {s : State} (hl : s.errcode = 0) (hw : s.wcnt = 12) : exec .extract s = .next s.extracted :=
  exec_of_effect (.inl hl) ⟨hw, rfl⟩

/-- An EXTRACT without twelve words raises MalformedWordError (R132). -/
theorem exec_extract_of_bad_count {s : State} (hl : s.errcode = 0) (hw : s.wcnt ≠ 12) :
    exec .extract s = raise .malformedWord (encode .extract) s :=
  (unlessLatched_clear hl).trans (if_pos hw)

/-- Settles O38: EXTRACT's two outcomes, its index read as the low four bits. -/
theorem extractReadsAndClearsTheIndexField : Obligations.ExtractReadsAndClearsTheIndexField := by
  refine fun s hl => ⟨fun hw => ?_, exec_extract_of_bad_count hl⟩
  rw [exec_extract hl hw, State.extracted, indexField_eq_setWidth]
  rfl

/-! ### EMBED and then EXTRACT -/

/-- The last word after an EMBED is the old one with its field overwritten (R131). -/
@[simp] theorem embedded_last (i : Byte) (s : State) : (s.embedded i).w[11] = setIndexField s.w[11] i :=
  Vector.getElem_set_self _

/-- The last of the cleared words has a cleared field (R132). -/
@[simp] theorem clearedWords_last (s : State) : s.clearedWords[11] = clearIndexField s.w[11] :=
  Vector.getElem_set_self _

/-- With the field cleared, the words after an EMBED are those before it (R133). -/
theorem embedded_clearedWords {i : Byte} (hi : i.toNat ≤ 15) (s : State) :
    (s.embedded i).clearedWords = s.clearedWords := by
  rw [State.clearedWords, embedded_last, clearIndexField_setIndexField _ hi]
  exact Vector.set_set ..

/-- With the field cleared, the words after an EXTRACT are those before it. -/
theorem extracted_clearedWords (s : State) : s.extracted.clearedWords = s.clearedWords := by
  have hlast : s.extracted.w[11] = clearIndexField s.w[11] := clearedWords_last s
  have hidem : clearIndexField (clearIndexField s.w[11]) = clearIndexField s.w[11] := by
    rw [clearIndexField, clearIndexField, BitVec.and_assoc, BitVec.and_self]
  rw [State.clearedWords, hlast, hidem]
  exact Vector.set_set ..

/-- IDXR after EMBED i and EXTRACT is i (R133). -/
theorem embedded_extracted_idxr {i : Byte} (hi : i.toNat ≤ 15) (s : State) :
    (s.embedded i).extracted.idxr.toNat = i.toNat := by
  rw [State.extracted, putIdxr_idxr, embedded_last, indexField_setIndexField _ hi, BitVec.toNat_setWidth]
  exact Nat.mod_eq_of_lt (by omega)

/-- W after EMBED i and EXTRACT is W before the EMBED with the field cleared (R133). -/
theorem embedded_extracted_w {i : Byte} (hi : i.toNat ≤ 15) (s : State) :
    (s.embedded i).extracted.w = s.clearedWords :=
  embedded_clearedWords hi s

/-- Settles O39: W ends as the cleared words, and their last word is compared bit by bit with that of each state before. -/
theorem extractAfterEmbedReturnsTheIndex : Obligations.ExtractAfterEmbedReturnsTheIndex := by
  intro s i hl hw h1 h15
  refine ⟨s.embedded i, (s.embedded i).extracted, exec_embed hl h1 h15 hw, exec_extract hl hw,
    embedded_extracted_idxr h15 s, rfl, fun j hj => ?_, fun b hb => ?_, fun b hb => ?_⟩ <;>
    rw [embedded_extracted_w h15]
  · have hcleared : s.clearedWords[j] = s.w[j] := set_last_getElem _ _ hj
    have hembedded : (s.embedded i).w[j] = s.w[j] := set_last_getElem _ _ hj
    exact ⟨hcleared, hcleared.trans hembedded.symm⟩
  · rw [clearedWords_last, embedded_last, getLsbD_clearIndexField, getLsbD_setIndexField _ h15, if_neg (by omega),
      decide_eq_true hb, Bool.true_and]
    exact ⟨rfl, rfl⟩
  · rw [clearedWords_last, getLsbD_clearIndexField, decide_eq_false (by omega), Bool.false_and]

/-! ### The payload -/

/-- With twelve words the codec words are the whole of W (R26). -/
theorem codecWords_of_full {s : State} (hw : s.wcnt = 12) : s.codecWords = s.w.toList := by
  rw [State.codecWords, hw]
  exact List.take_of_length_le (by simp)

/-- Twelve words come back from UNPACK and PACK as the words with the index field cleared (R119, R130). -/
theorem unpacked_packed_of_full {s : State} (hl : s.errcode = 0) (hw : s.wcnt = 12) :
    s.unpacked.packed.wcnt = 12 ∧ s.unpacked.packed.w = s.clearedWords := by
  obtain ⟨u, v, hu, hv, hcnt, hfront, hlast⟩ := packAfterUnpackRestoresTheWords.2 s hl hw
  obtain rfl : s.unpacked = u := next_unique (exec_unpack hl) hu
  obtain rfl : s.unpacked.packed = v := next_unique (exec_pack (s := s.unpacked) hl) hv
  refine ⟨hcnt, Vector.ext fun j hj => ?_⟩
  rw [State.clearedWords, Vector.getElem_set]
  split
  · next h11 =>
    subst h11
    exact hlast
  · next h11 => exact hfront ⟨j, hj⟩ fun h => h11 (congrArg Fin.val h).symm

/-- Packing what twelve words unpack into gives the words with the index field cleared. -/
theorem pack_unpack_codecWords_of_full {s : State} (hl : s.errcode = 0) (hw : s.wcnt = 12) :
    pack (unpack s.codecWords) = s.clearedWords.toList := by
  obtain ⟨hcnt, hwords⟩ := unpacked_packed_of_full hl hw
  rw [← hwords, ← codecWords_of_full hcnt, packed_codecWords, unpacked_codecBytes]

/-- The payload of twelve words is that of the words with the index field cleared: sixteen bytes survive a packing (R118). -/
theorem unpack_codecWords_of_full {s : State} (hl : s.errcode = 0) (hw : s.wcnt = 12) :
    unpack s.codecWords = unpack s.clearedWords.toList := by
  have hlen : (unpack s.codecWords).length = 16 := by
    rw [unpack_length, codecWords_length_of_full hw]
    rfl
  rw [← pack_unpack_codecWords_of_full hl hw, unpack_pack, hlen]
  rfl

/-- UNPACK gives the same CB and BLEN on two states whose twelve words agree but for the index field (R134). -/
theorem unpacked_eq_of_clearedWords_eq {s t : State} (hs : s.errcode = 0) (ht : t.errcode = 0) (hsw : s.wcnt = 12)
    (htw : t.wcnt = 12) (h : t.clearedWords = s.clearedWords) :
    t.unpacked.cb = s.unpacked.cb ∧ t.unpacked.blen = s.unpacked.blen := by
  have hpay : unpack t.codecWords = unpack s.codecWords := by
    rw [unpack_codecWords_of_full ht htw, unpack_codecWords_of_full hs hsw, h]
  simp only [State.unpacked, putCodec_cb, putCodec_blen, hpay, and_self]

/-- Settles O40: neither command changes the words with the field cleared, on which alone the payload depends. -/
theorem payloadDoesNotDependOnTheIndexField : Obligations.PayloadDoesNotDependOnTheIndexField := by
  intro s u e x i hl hw hu h1 h15 he hx
  obtain rfl : s.unpacked = u := next_unique (exec_unpack hl) hu
  obtain rfl : s.embedded i = e := next_unique (exec_embed hl h1 h15 hw) he
  obtain rfl : s.extracted = x := next_unique (exec_extract hl hw) hx
  obtain ⟨hcb, hblen⟩ := unpacked_eq_of_clearedWords_eq (t := s.embedded i) hl hl hw hw (embedded_clearedWords h15 s)
  obtain ⟨hcb', hblen'⟩ := unpacked_eq_of_clearedWords_eq (t := s.extracted) hl hl hw hw (extracted_clearedWords s)
  exact ⟨_, _, exec_unpack hl, exec_unpack hl, hcb, hblen, hcb', hblen'⟩

end Sys2Proof.Machine
end

section
/-!
SUPPORT. The polynomial a bit vector stands for (spec/42_field.md rule R140), as a function: sums, multiples and degrees of
polynomials over GF(2) read on the bits. Every polynomial of low degree is reached, so that statements about factors are
statements about bit vectors.
-/

namespace Sys2Proof.Machine

open Polynomial

/-- The polynomial over GF(2) that a bit vector stands for, the `f` of `StandsFor`. -/
noncomputable def polyOf {n : Nat} (a : BitVec n) : (ZMod 2)[X] :=
  ∑ i ∈ Finset.range n, if a.getLsbD i then X ^ i else 0

theorem standsFor_polyOf {n : Nat} (a : BitVec n) : StandsFor a (polyOf a) := standsFor_sum a

@[simp] theorem coeff_polyOf {n : Nat} (a : BitVec n) (i : Nat) : (polyOf a).coeff i = if a.getLsbD i then 1 else 0 :=
  standsFor_polyOf a i

/-- `StandsFor` is the graph of `polyOf`. -/
theorem standsFor_iff {n : Nat} {a : BitVec n} {f : (ZMod 2)[X]} : StandsFor a f ↔ f = polyOf a :=
  ⟨fun h => h.unique (standsFor_polyOf a), fun h => h ▸ standsFor_polyOf a⟩

@[simp] theorem polyOf_zero (n : Nat) : polyOf (0#n) = 0 := by
  ext i; simp

theorem polyOf_one : polyOf (1 : Byte) = 1 := by
  ext i; rcases i with _ | i <;> simp [coeff_one, BitVec.getLsbD_one]

/-- Exclusive or is the sum (R142). -/
theorem polyOf_xor {n : Nat} (a b : BitVec n) : polyOf (a ^^^ b) = polyOf a + polyOf b := by
  ext i
  cases ha : a.getLsbD i <;> cases hb : b.getLsbD i <;> simp [ha, hb]
  decide

/-- Different bit vectors stand for different polynomials. -/
theorem polyOf_injective {n : Nat} : Function.Injective (polyOf (n := n)) := by
  intro a b h
  refine BitVec.eq_of_getLsbD_eq fun i _ => ?_
  have hi := congrArg (coeff · i) h
  cases ha : a.getLsbD i <;> cases hb : b.getLsbD i <;> simp [ha, hb] at hi ⊢

theorem degree_polyOf_lt {n : Nat} (a : BitVec n) : (polyOf a).degree < n := by
  rw [degree_lt_iff_coeff_zero]
  intro i hi
  simp [BitVec.getLsbD_of_ge a i hi]

/-- Every polynomial of degree below n is that of a bit vector of width n. -/
theorem exists_polyOf_eq {n : Nat} {f : (ZMod 2)[X]} (hf : f.degree < n) : ∃ a : BitVec n, polyOf a = f := by
  refine ⟨BitVec.ofFnLE fun i => decide (f.coeff i = 1), ?_⟩
  ext i
  rcases Nat.lt_or_ge i n with hi | hi
  · have hbit : ∀ z : ZMod 2, (if z = 1 then 1 else 0) = z := by decide
    simpa [BitVec.getLsbD_ofFnLE, hi] using hbit (f.coeff i)
  · rw [coeff_polyOf, BitVec.getLsbD_of_ge _ i hi, (degree_lt_iff_coeff_zero f n).1 hf i hi]
    rfl

/-- A leading bit put before n bits stands at position n. -/
theorem getLsbD_one_append {n : Nat} (a : BitVec n) : (1#1 ++ a).getLsbD n = true := by
  simp [BitVec.getLsbD_append]

/-- A leading bit adds its power of x. -/
theorem polyOf_one_append {n : Nat} (a : BitVec n) : polyOf (1#1 ++ a) = X ^ n + polyOf a := by
  ext i
  rw [coeff_polyOf, BitVec.getLsbD_append, coeff_add, coeff_X_pow, coeff_polyOf]
  rcases Nat.lt_trichotomy i n with hi | rfl | hi
  · simp [hi, hi.ne]
  · simp
  · simp [hi.not_gt, hi.ne', BitVec.getLsbD_of_ge a i hi.le, show i - n ≠ 0 by omega]

theorem monic_polyOf_one_append {n : Nat} (a : BitVec n) : (polyOf (1#1 ++ a)).Monic := by
  rw [polyOf_one_append]
  exact monic_X_pow_add (degree_polyOf_lt a)

theorem natDegree_polyOf_one_append {n : Nat} (a : BitVec n) : (polyOf (1#1 ++ a)).natDegree = n := by
  have hlt : (polyOf a).degree < (X ^ n : (ZMod 2)[X]).degree := by
    rw [degree_X_pow]
    exact degree_polyOf_lt a
  rw [polyOf_one_append, natDegree_add_eq_left_of_degree_lt hlt, natDegree_X_pow]

/-- A monic polynomial of degree n has n free coefficients. -/
theorem exists_polyOf_one_append_eq {n : Nat} {f : (ZMod 2)[X]} (hf : f.Monic) (hn : f.natDegree = n) :
    ∃ a : BitVec n, polyOf (1#1 ++ a) = f := by
  have hlow : (f - X ^ n).degree < (n : WithBot Nat) := by
    rw [← hn, ← degree_eq_natDegree hf.ne_zero]
    refine degree_sub_lt_left ?_ hf.ne_zero ?_
    · rw [degree_X_pow, degree_eq_natDegree hf.ne_zero]
    · rw [hf.leadingCoeff, leadingCoeff_X_pow]
  obtain ⟨a, ha⟩ := exists_polyOf_eq hlow
  exact ⟨a, by rw [polyOf_one_append, ha, add_sub_cancel]⟩

/-- A shift to the left of bits that fit multiplies by a power of x. -/
theorem polyOf_setWidth_shiftLeft {m n k : Nat} (a : BitVec m) (h : m + k ≤ n) :
    polyOf (a.setWidth n <<< k) = X ^ k * polyOf a := by
  ext i
  rw [coeff_polyOf, coeff_X_pow_mul', coeff_polyOf, BitVec.getLsbD_shiftLeft, BitVec.getLsbD_setWidth]
  rcases Nat.lt_or_ge i k with hi | hi
  · simp [hi]
  · rcases Nat.lt_or_ge i (m + k) with hm | hm
    · simp [hi, hi.not_gt, show i < n by omega, show i - k < n by omega]
    · simp [BitVec.getLsbD_of_ge a (i - k) (by omega)]

/-- A shift to the left by one loses the top bit. -/
theorem X_mul_polyOf {n : Nat} (a : BitVec (n + 1)) :
    X * polyOf a = (if a.getLsbD n then X ^ (n + 1) else 0) + polyOf (a <<< 1) := by
  ext i
  rcases i with _ | i
  · simp [apply_ite (coeff · 0)]
  · rw [coeff_X_mul, coeff_add, apply_ite (coeff · (i + 1)), coeff_X_pow, coeff_zero, coeff_polyOf, coeff_polyOf,
      BitVec.getLsbD_shiftLeft]
    rcases Nat.lt_trichotomy i n with hi | rfl | hi
    · simp [hi, hi.ne]
    · simp
    · simp [hi.ne', BitVec.getLsbD_of_ge a i hi]

theorem polyOf_twoPow {n k : Nat} (h : k < n) : polyOf (BitVec.twoPow n k) = X ^ k := by
  ext i
  rw [coeff_polyOf, BitVec.getLsbD_twoPow, coeff_X_pow, decide_eq_true h, Bool.true_and]
  simp [eq_comm]

end Sys2Proof.Machine
end

section
/-!
SUPPORT. The arithmetic of the SSCE is that of the polynomials over GF(2) modulo POLY (spec/42_field.md rules R140 to R144):
`residue` carries bytes to residue classes, `gfadd`, `gfmul` and `gfpow` to sum, product and power, and no two bytes to the same
class. An equation between bytes is proved as the equation between their classes, in a commutative ring and, for a legal POLY,
in a field.
-/

namespace Sys2Proof.Machine

open Polynomial

/-- The residue class modulo POLY of the polynomial a byte stands for. -/
noncomputable def residue (poly : BitVec 9) (a : Byte) : AdjoinRoot (polyOf poly) := AdjoinRoot.mk _ (polyOf a)

/-! ### The operations on classes -/

section
variable (poly : BitVec 9)

@[simp] theorem residue_zero : residue poly 0 = 0 := by
  exact (congrArg _ (polyOf_zero 8)).trans (map_zero _)

@[simp] theorem residue_one : residue poly 1 = 1 := by
  rw [residue, polyOf_one, map_one]

@[simp] theorem residue_xor (a b : Byte) : residue poly (a ^^^ b) = residue poly a + residue poly b := by
  rw [residue, polyOf_xor, map_add]
  rfl

theorem residue_add_self (a : Byte) : residue poly a + residue poly a = 0 := by
  rw [← residue_xor, BitVec.xor_self]
  exact residue_zero poly

end

/-- A POLY with bit 8 set is that bit and the byte below it. -/
theorem one_append_setWidth {poly : BitVec 9} (h : poly.getLsbD 8 = true) : 1#1 ++ poly.setWidth 8 = poly := by
  refine BitVec.eq_of_getLsbD_eq fun i hi => ?_
  rw [BitVec.getLsbD_append, BitVec.getLsbD_setWidth]
  rcases Nat.lt_or_eq_of_le (Nat.le_of_lt_succ hi) with hi | rfl
  · simp [hi]
  · simp [h]

section
variable {poly : BitVec 9} (h : poly.getLsbD 8 = true)
include h

theorem monic_polyOf : (polyOf poly).Monic := one_append_setWidth h ▸ monic_polyOf_one_append (poly.setWidth 8)

theorem natDegree_polyOf : (polyOf poly).natDegree = 8 :=
  one_append_setWidth h ▸ natDegree_polyOf_one_append (poly.setWidth 8)

theorem degree_polyOf : (polyOf poly).degree = 8 := by
  rw [degree_eq_natDegree (monic_polyOf h).ne_zero, natDegree_polyOf h]
  rfl

/-- x to the 8th is congruent to the low byte of POLY. -/
theorem root_pow_eight : AdjoinRoot.root (polyOf poly) ^ 8 = residue poly (poly.setWidth 8) := by
  have hsum : AdjoinRoot.root (polyOf poly) ^ 8 + residue poly (poly.setWidth 8) = 0 := by
    rw [residue, ← AdjoinRoot.mk_X, ← map_pow, ← map_add, ← polyOf_one_append, one_append_setWidth h, AdjoinRoot.mk_self]
  rw [eq_neg_of_add_eq_zero_left hsum, neg_eq_iff_add_eq_zero, residue_add_self]

/-- One shift of rule R143 multiplies by x. -/
theorem residue_xtime (a : Byte) : residue poly (xtime poly a) = AdjoinRoot.root (polyOf poly) * residue poly a := by
  rw [residue, residue, ← AdjoinRoot.mk_X, ← map_mul, X_mul_polyOf, map_add, xtime]
  cases a.getLsbD 7
  · simp
  · simp only [if_true, polyOf_xor, map_add, map_pow, AdjoinRoot.mk_X, root_pow_eight h, residue, add_comm]

/-- `n` rounds of the loop add the product with the low n bits of the second operand. -/
theorem residue_gfmulLoop (n : Nat) (p a b : Byte) :
    residue poly (gfmulLoop poly n p a b) = residue poly p + residue poly a *
      AdjoinRoot.mk _ (∑ i ∈ Finset.range n, if b.getLsbD i then X ^ i else 0) := by
  induction n generalizing p a b with
  | zero => simp [gfmulLoop]
  | succ n ih =>
    have hshift : (∑ i ∈ Finset.range n, if b.getLsbD (i + 1) then (X : (ZMod 2)[X]) ^ (i + 1) else 0) =
        X * ∑ i ∈ Finset.range n, if (b >>> 1).getLsbD i then X ^ i else 0 := by
      rw [Finset.mul_sum]
      refine Finset.sum_congr rfl fun i _ => ?_
      rw [BitVec.getLsbD_ushiftRight, Nat.add_comm 1 i, mul_ite, mul_zero, pow_succ']
    rw [gfmulLoop, ih, residue_xtime h, Finset.sum_range_succ', hshift, map_add, map_mul, AdjoinRoot.mk_X]
    cases b.getLsbD 0 <;> simp <;> ring

/-- `gfmul` is the product of residue classes (R143). -/
theorem residue_gfmul (a b : Byte) : residue poly (gfmul poly a b) = residue poly a * residue poly b := by
  rw [gfmul, residue_gfmulLoop h, residue_zero, zero_add]
  rfl

/-- `gfpow` is the power of residue classes (R144). -/
theorem residue_gfpow (a : Byte) (e : Nat) : residue poly (gfpow poly a e) = residue poly a ^ e := by
  induction e with
  | zero => exact (residue_one poly).trans (pow_zero _).symm
  | succ e ih => rw [gfpow, residue_gfmul h, ih, pow_succ]

/-- Only the byte 0 is in the class of 0: every other one stands for a polynomial of a degree below that of POLY. -/
theorem residue_eq_zero_iff {a : Byte} : residue poly a = 0 ↔ a = 0 := by
  refine ⟨fun ha => ?_, fun ha => ha ▸ residue_zero poly⟩
  by_contra hne
  have hpoly : polyOf a ≠ 0 := fun h0 => hne (polyOf_injective (h0.trans (polyOf_zero 8).symm))
  have hdeg : (polyOf a).degree < (polyOf poly).degree := (degree_polyOf_lt a).trans_eq (degree_polyOf h).symm
  exact AdjoinRoot.mk_ne_zero_of_degree_lt (monic_polyOf h) hpoly hdeg ha

/-- Different bytes are in different classes. -/
theorem residue_injective : Function.Injective (residue poly) := by
  intro a b hab
  have hxor : residue poly (a ^^^ b) = 0 := by rw [residue_xor, hab, residue_add_self]
  exact BitVec.xor_eq_zero_iff.1 ((residue_eq_zero_iff h).1 hxor)

/-- Every class holds a byte: the remainder modulo POLY. -/
theorem residue_surjective : Function.Surjective (residue poly) := by
  intro x
  obtain ⟨f, rfl⟩ := AdjoinRoot.mk_surjective x
  obtain ⟨a, ha⟩ : ∃ a : Byte, polyOf a = f %ₘ polyOf poly :=
    exists_polyOf_eq ((degree_modByMonic_lt f (monic_polyOf h)).trans_eq (degree_polyOf h))
  refine ⟨a, ?_⟩
  rw [residue, ha]
  exact AdjoinRoot.mk_leftInverse (monic_polyOf h) (AdjoinRoot.mk _ f)

/-! ### The ring laws (R147) -/

theorem gfmul_zero (a : Byte) : gfmul poly a 0 = 0 :=
  residue_injective h (by rw [residue_gfmul h, residue_zero, mul_zero])

theorem gfmul_comm (a b : Byte) : gfmul poly a b = gfmul poly b a :=
  residue_injective h (by simp only [residue_gfmul h, mul_comm])

theorem gfmul_assoc (a b c : Byte) : gfmul poly (gfmul poly a b) c = gfmul poly a (gfmul poly b c) :=
  residue_injective h (by simp only [residue_gfmul h, mul_assoc])

theorem gfmul_one (a : Byte) : gfmul poly a 1 = a :=
  residue_injective h (by rw [residue_gfmul h, residue_one, mul_one])

end

end Sys2Proof.Machine
end

section
/-!
SUPPORT. Irreducible values of POLY (spec/42_field.md rule R141). A polynomial of degree 8 is irreducible when no monic one of
degree 1 to 4 divides it; whether one does is a product of bytes: q divides p exactly when x^k q, of degree 8, divides x^k p,
that is when the product of x^k and p modulo x^k q is 0.
-/

namespace Sys2Proof.Machine

open Polynomial

/-- Whether the monic polynomial of degree d with low coefficients c divides the one of degree 8 with low coefficients l. -/
def dividesOctic (d : Nat) (c : BitVec d) (l : Byte) : Bool :=
  gfmul (1#1 ++ (c.setWidth 8 <<< (8 - d))) (BitVec.twoPow 8 (8 - d)) (l ^^^ (c.setWidth 8 <<< (8 - d))) == 0

/-- The multiple of degree 8, by a power of x, of a monic polynomial of lower degree. -/
theorem polyOf_shifted {d : Nat} (hd : d ≤ 8) (c : BitVec d) :
    polyOf (1#1 ++ (c.setWidth 8 <<< (8 - d))) = X ^ (8 - d) * polyOf (1#1 ++ c) := by
  rw [polyOf_one_append, polyOf_one_append, polyOf_setWidth_shiftLeft c (by omega), mul_add, ← pow_add, Nat.sub_add_cancel hd]

/-- Two polynomials of degree 8 are congruent to their difference, of lower degree. -/
theorem polyOf_one_append_add (l m : Byte) : polyOf (1#1 ++ l) = polyOf (1#1 ++ m) + polyOf (l ^^^ m) := by
  have hl : m ^^^ (l ^^^ m) = l := by rw [BitVec.xor_comm l, ← BitVec.xor_assoc, BitVec.xor_self, BitVec.zero_xor]
  rw [polyOf_one_append, polyOf_one_append, add_assoc, ← polyOf_xor, hl]

/-- `dividesOctic` decides divisibility. -/
theorem dividesOctic_iff {d : Nat} (h0 : 0 < d) (hd : d ≤ 8) (c : BitVec d) (l : Byte) :
    dividesOctic d c l = true ↔ polyOf (1#1 ++ c) ∣ polyOf (1#1 ++ l) := by
  have hbit : (1#1 ++ (c.setWidth 8 <<< (8 - d)) : BitVec 9).getLsbD 8 = true :=
    getLsbD_one_append _
  have hX : (X ^ (8 - d) : (ZMod 2)[X]) ≠ 0 := pow_ne_zero _ X_ne_zero
  rw [dividesOctic, beq_iff_eq, ← residue_eq_zero_iff hbit, residue_gfmul hbit]
  rw [residue, residue, ← map_mul, AdjoinRoot.mk_eq_zero, polyOf_twoPow (by omega), polyOf_shifted hd,
    mul_dvd_mul_iff_left hX, polyOf_one_append_add l (c.setWidth 8 <<< (8 - d)), polyOf_shifted hd]
  exact (dvd_add_right (dvd_mul_left _ _)).symm

/-- A polynomial of degree 8 is irreducible exactly when no monic one of degree 1 to 4 divides it. -/
theorem irreducible_polyOf_iff (l : Byte) :
    Irreducible (polyOf (1#1 ++ l)) ↔ ∀ (d : Fin 4) (c : BitVec (d + 1)), dividesOctic (d + 1) c l = false := by
  have hne : polyOf (1#1 ++ l) ≠ 1 := fun h1 => by
    simpa [h1] using natDegree_polyOf_one_append l
  rw [(monic_polyOf_one_append l).irreducible_iff_lt_natDegree_lt hne, natDegree_polyOf_one_append]
  constructor
  · intro hirr d c
    rw [Bool.eq_false_iff, Ne, dividesOctic_iff (by omega) (by omega)]
    refine hirr _ (monic_polyOf_one_append c) ?_
    rw [natDegree_polyOf_one_append, Finset.mem_Ioc]
    omega
  · intro hnone q hq hdeg
    obtain ⟨h0, h4⟩ := Finset.mem_Ioc.1 hdeg
    obtain ⟨d, hd⟩ : ∃ d : Fin 4, q.natDegree = d + 1 := ⟨⟨q.natDegree - 1, by omega⟩, by simp; omega⟩
    obtain ⟨c, rfl⟩ := exists_polyOf_one_append_eq hq hd
    rw [← dividesOctic_iff (by omega) (by omega), hnone d c]
    exact Bool.false_ne_true

/-- The list of rule R141 holds the values with no divisor of degree 1 to 4: a finite check, 256 values by 30 divisors. -/
theorem mem_legalPolys_iff_no_divisor : ∀ l : Byte, (1#1 ++ l) ∈ Config.legalPolys ↔
    ∀ (d : Fin 4) (c : BitVec (d + 1)), dividesOctic (d + 1) c l = false := by
  decide +kernel

/-- The values of the list have bit 8 set. -/
theorem getLsbD_eight_of_legalPoly : ∀ {poly : BitVec 9}, LegalPoly poly → poly.getLsbD 8 = true := by
  decide

/-- With bit 8 set, the legal values are the irreducible ones. -/
theorem legalPoly_iff_irreducible {poly : BitVec 9} (h : poly.getLsbD 8 = true) :
    LegalPoly poly ↔ Irreducible (polyOf poly) := by
  rw [← one_append_setWidth h, irreducible_polyOf_iff, LegalPoly, mem_legalPolys_iff_no_divisor]

/-- Settles O44: membership in the list is irreducibility, and the list itself is inspected. -/
theorem legalPolysAreTheIrreducibleOnes : Obligations.LegalPolysAreTheIrreducibleOnes := by
  refine ⟨fun p => ⟨fun hp => ?_, fun ⟨h8, f, hf, hirr⟩ => ?_⟩, by decide, rfl⟩
  · have h8 := getLsbD_eight_of_legalPoly hp
    exact ⟨h8, polyOf p, standsFor_polyOf p, (legalPoly_iff_irreducible h8).1 hp⟩
  · obtain rfl := standsFor_iff.1 hf
    exact (legalPoly_iff_irreducible h8).2 hirr

end Sys2Proof.Machine
end

section
/-!
SUPPORT. The bytes under a legal POLY are a field (spec/42_field.md rule R147), since their residue classes are: the finite
field of 256 elements. What the three field commands and Horner's form compute follows from its laws (rules R145, R150 to
R152).
-/

namespace Sys2Proof.Machine

/-! ### The field of 256 elements -/

section
variable {poly : BitVec 9} (h : poly.getLsbD 8 = true)
include h

/-- There are as many residue classes as bytes. -/
theorem card_adjoinRoot : Nat.card (AdjoinRoot (polyOf poly)) = 256 := by
  rw [← Nat.card_eq_of_bijective _ ⟨residue_injective h, residue_surjective h⟩, Nat.card_congr BitVec.equivFin.toEquiv,
    Nat.card_fin]
  rfl

variable [Fact (Irreducible (polyOf poly))]

/-- A class other than 0 is one of a group of 255. -/
theorem residue_pow_255 {a : Byte} (ha : a ≠ 0) : residue poly a ^ 255 = 1 := by
  have hcard : Nat.card (AdjoinRoot (polyOf poly))ˣ = 255 := by rw [Nat.card_units, card_adjoinRoot h]
  have hpow := pow_card_eq_one' (x := Units.mk0 (residue poly a) ((residue_eq_zero_iff h).not.2 ha))
  rw [hcard] at hpow
  exact congrArg Units.val hpow

/-- `gfinv` is the inverse of residue classes, at 0 too (R144). -/
theorem residue_gfinv (a : Byte) : residue poly (gfinv poly a) = (residue poly a)⁻¹ := by
  rw [gfinv, residue_gfpow h]
  by_cases ha : a = 0
  · rw [ha, residue_zero, inv_zero, zero_pow (by decide)]
  · exact eq_inv_of_mul_eq_one_left ((pow_succ _ 254).symm.trans (residue_pow_255 h ha))

end

/-! ### The field laws of a legal POLY -/

section
variable {poly : BitVec 9} (hp : LegalPoly poly)
include hp

theorem fact_irreducible : Fact (Irreducible (polyOf poly)) :=
  ⟨(legalPoly_iff_irreducible (getLsbD_eight_of_legalPoly hp)).1 hp⟩

theorem gfmul_eq_zero {a b : Byte} (hab : gfmul poly a b = 0) : a = 0 ∨ b = 0 := by
  have h := getLsbD_eight_of_legalPoly hp
  have := fact_irreducible hp
  rw [← residue_eq_zero_iff h, residue_gfmul h, mul_eq_zero] at hab
  exact hab.imp (residue_eq_zero_iff h).1 (residue_eq_zero_iff h).1

theorem gfpow_255 {a : Byte} (ha : a ≠ 0) : gfpow poly a 255 = 1 := by
  have h := getLsbD_eight_of_legalPoly hp
  have := fact_irreducible hp
  exact residue_injective h (by rw [residue_gfpow h, residue_pow_255 h ha, residue_one])

theorem gfinv_gfinv (a : Byte) : gfinv poly (gfinv poly a) = a := by
  have h := getLsbD_eight_of_legalPoly hp
  have := fact_irreducible hp
  exact residue_injective h (by rw [residue_gfinv h, residue_gfinv h, inv_inv])

/-- The inverse of a byte other than 0 is the one factor that gives 1 (R144). -/
theorem gfmul_eq_one_iff {a b : Byte} (ha : a ≠ 0) : gfmul poly a b = 1 ↔ b = gfinv poly a := by
  have h := getLsbD_eight_of_legalPoly hp
  have := fact_irreducible hp
  rw [← (residue_injective h).eq_iff, ← (residue_injective h).eq_iff, residue_gfmul h, residue_gfinv h, residue_one]
  exact (mul_eq_one_iff_inv_eq₀ ((residue_eq_zero_iff h).not.2 ha)).trans eq_comm

theorem gfmul_gfinv {a : Byte} (ha : a ≠ 0) : gfmul poly a (gfinv poly a) = 1 := (gfmul_eq_one_iff hp ha).2 rfl

end

/-- Settles O45, law by law. -/
theorem bytesFormAField : Obligations.BytesFormAField := by
  intro poly hp a b c
  have h := getLsbD_eight_of_legalPoly hp
  exact ⟨BitVec.xor_comm a b, BitVec.xor_assoc a b c, gfmul_comm h a b, gfmul_assoc h a b c, gfmul_xor_right poly a b c,
    BitVec.xor_zero, BitVec.xor_self, gfmul_one h a, gfmul_zero h a, gfmul_eq_zero hp,
    fun ha => ⟨gfmul_gfinv hp ha, gfinv_gfinv hp a, gfpow_255 hp ha⟩⟩

/-! ### Horner's form -/

/-- The exclusive or of a list of bytes, from the left as the statements write it. -/
def xorAll (ys : List Byte) : Byte := ys.foldl (fun acc y => acc ^^^ y) 0

/-- The exclusive or of the coefficients times the powers of x, the right side of R145. -/
def sumOfPowers (poly : BitVec 9) (c : List Byte) (x : Byte) : Byte :=
  xorAll ((List.range c.length).map fun j => gfmul poly (c.getD j 0) (gfpow poly x j))

theorem xorAll_cons (y : Byte) (ys : List Byte) : xorAll (y :: ys) = y ^^^ xorAll ys := by
  rw [xorAll, List.foldl_cons, BitVec.xor_comm, List.foldl_assoc]
  rfl

section
variable {poly : BitVec 9} (h : poly.getLsbD 8 = true)
include h

/-- Multiplication distributes over the exclusive or of a list. -/
theorem gfmul_xorAll (ys : List Byte) (x : Byte) :
    gfmul poly (xorAll ys) x = xorAll (ys.map fun y => gfmul poly y x) := by
  induction ys with
  | nil => exact (gfmul_comm h 0 x).trans (gfmul_zero h x)
  | cons y ys ih => rw [List.map_cons, xorAll_cons, xorAll_cons, gfmul_xor_left, ih]

/-- One more coefficient below the others: they are multiplied by x once more. -/
theorem sumOfPowers_cons (c0 : Byte) (c : List Byte) (x : Byte) :
    sumOfPowers poly (c0 :: c) x = gfmul poly (sumOfPowers poly c x) x ^^^ c0 := by
  have hterm : ∀ j, gfmul poly (c.getD j 0) (gfpow poly x (j + 1)) =
      gfmul poly (gfmul poly (c.getD j 0) (gfpow poly x j)) x := fun _ => (gfmul_assoc h _ _ _).symm
  rw [sumOfPowers, List.length_cons, List.range_succ_eq_map, List.map_cons, xorAll_cons, List.map_map, BitVec.xor_comm,
    sumOfPowers, gfmul_xorAll h, List.map_map]
  exact congrArg₂ (· ^^^ ·) (congrArg xorAll (List.map_congr_left fun j _ => hterm j)) (gfmul_one h c0)

/-- Horner's step multiplies every term by x and adds the constant term (R145). -/
theorem polyeval_eq_sumOfPowers (c : List Byte) (x : Byte) : polyeval poly c x = sumOfPowers poly c x := by
  induction c with
  | nil => rfl
  | cons c0 c ih => rw [sumOfPowers_cons h, ← ih]; rfl

end

/-- Settles O46. -/
theorem polyevalIsTheSumOfPowers : Obligations.PolyevalIsTheSumOfPowers :=
  fun _ c x h => polyeval_eq_sumOfPowers h c x

/-! ### The commands -/

/-- Settles O41: FADD's effect. -/
theorem faddAddsTheOperands : Obligations.FaddAddsTheOperands :=
  fun _ hl => exec_of_effect (.inl hl) rfl

/-- Settles O42: FMUL's effect, and a congruence of classes read as a divisibility. -/
theorem fmulMultipliesModuloPoly : Obligations.FmulMultipliesModuloPoly := by
  refine fun s hl => ⟨exec_of_effect (.inl hl) rfl, fun h fa fb fr fm ha hb hr hm => ?_⟩
  obtain rfl := standsFor_iff.1 ha
  obtain rfl := standsFor_iff.1 hb
  obtain rfl := standsFor_iff.1 hr
  obtain rfl := standsFor_iff.1 hm
  rw [← AdjoinRoot.mk_eq_mk, map_mul]
  exact (residue_gfmul h s.gfa s.gfb).symm

theorem exec_finv {s : State} (hl : s.errcode = 0) (ha : s.gfa ≠ 0) :
    exec .finv s = .next (putGfr (gfinv s.poly s.gfa) s) :=
  exec_of_effect (.inl hl) ⟨ha, rfl⟩

/-- A FINV of 0 raises BadParameterError (R152). -/
theorem exec_finv_of_zero {s : State} (hl : s.errcode = 0) (ha : s.gfa = 0) :
    exec .finv s = raise .badParameter (encode .finv) s :=
  (unlessLatched_clear hl).trans (if_pos ha)

/-- Settles O43: FINV's two outcomes, and what its result is under a legal POLY. -/
theorem finvGivesTheUniqueInverse : Obligations.FinvGivesTheUniqueInverse := fun _ hl =>
  ⟨fun ha hp => ⟨_, exec_finv hl ha, rfl, fun _ => gfmul_eq_one_iff hp ha⟩, exec_finv hl, exec_finv_of_zero hl⟩

end Sys2Proof.Machine
end

section
/-!
SUPPORT. COMBINE's checks (spec/43_shamir.md rule R165): they look at the threshold, NSLOT and the indices of the valid slots
only, so what COMBINE answers is said once by what they find.
-/

namespace Sys2Proof.Machine

/-! ### The valid slots -/

/-- The indices of the valid slots, in ascending order of the slots' numbers: `xs` of rule R165. -/
def validIdxs (sh : List Slot) : List Byte := (validSlots sh).map fun x => x.idx

@[simp] theorem validIdxs_length (sh : List Slot) : (validIdxs sh).length = (validSlots sh).length := List.length_map _

theorem zero_notMem_validIdxs {sh : List Slot} (h : ∀ x ∈ sh, x.valid = true → x.idx ≠ 0) : 0 ∉ validIdxs sh := by
  intro hmem
  obtain ⟨x, hx, h0⟩ := List.mem_map.1 hmem
  obtain ⟨hsh, hv⟩ := List.mem_filter.1 hx
  exact h x hsh hv h0

/-- Two valid slots of one index repeat it in the list of indices. -/
theorem not_nodup_validIdxs {s : State} {j k : Nat} (hjk : j < k) (hk : k < s.nslot) (hj : (s.slot j).valid = true)
    (hkv : (s.slot k).valid = true) (hidx : (s.slot j).idx = (s.slot k).idx) : ¬ (validIdxs s.sh).Nodup := by
  intro hnd
  rw [validIdxs, List.Nodup, List.pairwise_map, validSlots, List.pairwise_filter, List.pairwise_iff_getElem] at hnd
  have hlt : j < s.sh.length := hjk.trans hk
  rw [State.slot, List.getD_eq_getElem _ _ hlt] at hj hidx
  rw [State.slot, List.getD_eq_getElem _ _ hk] at hkv hidx
  exact hnd j k hlt hk hjk hj hkv hidx

/-! ### The checks -/

/-- What the four checks of COMBINE find, in their order, from the threshold, NSLOT and the indices of the valid slots
(R165, R222). -/
def combineCheck (t nslot : Nat) (xs : List Byte) : Option Err :=
  if ¬ (2 ≤ t ∧ t ≤ nslot) then some .badParameter
  else if 0 ∈ xs then some .badParameter
  else if ¬ xs.Nodup then some .duplicateIndex
  else if xs.length < t then some .insufficientShares
  else none

/-- COMBINE raises what its checks find, and otherwise puts the recovered chunk into SEC (R165). -/
theorem exec_combine {s : State} (t : Byte) (hl : s.errcode = 0) :
    exec (.combine t) s = match combineCheck t.toNat s.nslot (validIdxs s.sh) with
      | some e => raise e (encode (.combine t)) s
      | none => .next (putSec (combineChunk s.poly (validSlots s.sh)) s) := by
  refine (unlessLatched_clear hl).trans ?_
  change (if ¬ (2 ≤ t.toNat ∧ t.toNat ≤ s.nslot) then _ else if 0 ∈ validIdxs s.sh then _
    else if ¬ (validIdxs s.sh).Nodup then _ else if (validSlots s.sh).length < t.toNat then _ else _) = _
  rw [combineCheck, validIdxs_length]
  split_ifs <;> rfl

section
variable {t nslot : Nat} {xs : List Byte}

theorem combineCheck_of_bad_threshold (ht : ¬ (2 ≤ t ∧ t ≤ nslot)) : combineCheck t nslot xs = some .badParameter :=
  if_pos ht

theorem combineCheck_of_zero_mem (h2 : 2 ≤ t) (hn : t ≤ nslot) (h0 : 0 ∈ xs) :
    combineCheck t nslot xs = some .badParameter := by
  rw [combineCheck, if_neg (not_not.2 ⟨h2, hn⟩), if_pos h0]

theorem combineCheck_of_not_nodup (h2 : 2 ≤ t) (hn : t ≤ nslot) (h0 : 0 ∉ xs) (hd : ¬ xs.Nodup) :
    combineCheck t nslot xs = some .duplicateIndex := by
  rw [combineCheck, if_neg (not_not.2 ⟨h2, hn⟩), if_neg h0, if_pos hd]

theorem combineCheck_of_too_few (h2 : 2 ≤ t) (hn : t ≤ nslot) (h0 : 0 ∉ xs) (hd : xs.Nodup) (hk : xs.length < t) :
    combineCheck t nslot xs = some .insufficientShares := by
  rw [combineCheck, if_neg (not_not.2 ⟨h2, hn⟩), if_neg h0, if_neg (not_not.2 hd), if_pos hk]

/-- The checks find nothing when none of their conditions holds. -/
theorem combineCheck_eq_none_iff :
    combineCheck t nslot xs = none ↔ (2 ≤ t ∧ t ≤ nslot) ∧ 0 ∉ xs ∧ xs.Nodup ∧ t ≤ xs.length := by
  simp [combineCheck, ite_eq_iff]

end

/-- COMBINE raises the error its checks find. -/
theorem exec_combine_raises {s : State} {t : Byte} {e : Err} (hl : s.errcode = 0)
    (hc : combineCheck t.toNat s.nslot (validIdxs s.sh) = some e) :
    exec (.combine t) s = raise e (encode (.combine t)) s := by
  rw [exec_combine t hl, hc]

/-- COMBINE recovers a chunk when its checks find nothing. -/
theorem exec_combine_recovers {s : State} {t : Byte} (hl : s.errcode = 0)
    (hc : combineCheck t.toNat s.nslot (validIdxs s.sh) = none) :
    exec (.combine t) s = .next (putSec (combineChunk s.poly (validSlots s.sh)) s) := by
  rw [exec_combine t hl, hc]

/-- The command word of COMBINE t (R92, R165). -/
theorem encode_combine (t : Byte) : encode (.combine t) = 0x00000029#32 ||| (t.setWidth 32 <<< 8) :=
  (commandWord_eq_or 0x29 t 0).trans BitVec.or_zero

/-- Settles O51: the checks find too few indices, or a repeated one. -/
theorem tooFewOrEqualSharesAreRefused : Obligations.TooFewOrEqualSharesAreRefused := by
  refine fun s t hl h2 hn => ⟨fun hd h0 hlen => ?_, fun j k hjk hk hj hkv hidx h0 => ?_⟩
  · have hfew : (validIdxs s.sh).length < t.toNat := by
      rw [validIdxs_length, validSlots, hlen]
      omega
    exact exec_combine_raises hl (combineCheck_of_too_few h2 hn (zero_notMem_validIdxs h0) hd hfew)
  · exact exec_combine_raises hl
      (combineCheck_of_not_nodup h2 hn (zero_notMem_validIdxs h0) (not_nodup_validIdxs hjk hk hj hkv hidx))

/-! ### The recovered chunk -/

/-- The elements of a list at other positions than j. -/
theorem eraseIdx_eq_map_range {α : Type} (xs : List α) (d : α) {j : Nat} (hj : j < xs.length) :
    xs.eraseIdx j = ((List.range xs.length).filter fun m => m != j).map fun m => xs.getD m d := by
  have herase : (List.range xs.length).eraseIdx j = (List.range xs.length).filter fun m => m != j := by
    have hj' : j < (List.range xs.length).length := by rwa [List.length_range]
    rw [← List.nodup_range.erase_getElem j hj', List.getElem_range, List.nodup_range.erase_eq_filter]
  have hmap : (List.range xs.length).map (fun m => xs.getD m d) = xs :=
    List.ext_getElem (by simp) fun i _ hi => by simp [hi]
  rw [← herase, ← List.eraseIdx_map, hmap]

/-- One byte of the recovered chunk, over the positions of the valid slots. -/
theorem combineChunk_getElem (poly : BitVec 9) (sel : List Slot) (p : Fin 16) :
    (combineChunk poly sel)[p] = xorAll ((List.range sel.length).map fun j =>
      gfmul poly (sel.getD j Slot.empty).pay[p] (lagrange0 poly (sel.map fun x => x.idx) j)) := by
  have hterms : List.zipWith (fun x l => gfmul poly x.pay[p] l) sel
      ((List.range (sel.map fun x => x.idx).length).map (lagrange0 poly (sel.map fun x => x.idx))) =
      (List.range sel.length).map fun j =>
        gfmul poly (sel.getD j Slot.empty).pay[p] (lagrange0 poly (sel.map fun x => x.idx) j) :=
    List.ext_getElem (by simp) fun i hi _ => by
      have : i < sel.length := by simpa using hi
      simp [this]
  rw [← hterms]
  simp [combineChunk, xorAll]

/-- The weight of rule R146 as the statement of R165 writes it, a product over the other positions. -/
theorem lagrange0_eq_foldl (poly : BitVec 9) (xs : List Byte) {j : Nat} (hj : j < xs.length) :
    lagrange0 poly xs j = ((List.range xs.length).filter fun m => m != j).foldl
      (fun acc m => gfmul poly acc (gfmul poly (xs.getD m 0) (gfinv poly (xs.getD m 0 ^^^ xs.getD j 0)))) 0x01 := by
  rw [lagrange0, eraseIdx_eq_map_range xs 0 hj, List.foldl_map]

/-- Settles O48: each outcome of the checks, and the recovered byte with its weights written out. -/
theorem combineInterpolatesAllValidSlots : Obligations.CombineInterpolatesAllValidSlots := by
  rintro s t hl _ _ rfl rfl
  refine ⟨fun ht => ?_, fun h2 hn => ⟨fun h0 => ?_, fun h0 hd => ?_, fun h0 hd hk => ?_, fun h0 hd hk => ?_⟩⟩
  · rw [exec_combine_raises hl (combineCheck_of_bad_threshold ht), encode_combine]
    rfl
  · rw [exec_combine_raises hl (combineCheck_of_zero_mem h2 hn h0), encode_combine]
    rfl
  · rw [exec_combine_raises hl (combineCheck_of_not_nodup h2 hn h0 hd), encode_combine]
    rfl
  · rw [exec_combine_raises hl (combineCheck_of_too_few h2 hn h0 hd hk), encode_combine]
    rfl
  · refine ⟨_, exec_combine_recovers hl (combineCheck_eq_none_iff.2 ⟨⟨h2, hn⟩, h0, hd, hk⟩), rfl, fun p => ?_⟩
    rw [putSec_sec, combineChunk_getElem, List.length_map]
    refine congrArg xorAll (List.map_congr_left fun j hj => ?_)
    rw [lagrange0_eq_foldl _ _ (by simpa using hj), List.length_map]
    rfl

end Sys2Proof.Machine
end

section
/-!
SUPPORT. The chunk COMBINE recovers, as a sum over the valid slots whose terms name no position: with different indices the
other slots are those of the other indices (spec/42_field.md rule R146, spec/43_shamir.md rules R160 and R165).
-/

namespace Sys2Proof.Machine

/-! ### Weights by index -/

/-- The Lagrange weight at zero of the index a among the indices xs (R146). -/
def lagrangeWeight (poly : BitVec 9) (xs : List Byte) (a : Byte) : Byte :=
  (xs.erase a).foldl (fun acc m => gfmul poly acc (gfmul poly m (gfinv poly (m ^^^ a)))) 0x01

/-- Among different indices the weight of a position is that of its index. -/
theorem lagrange0_eq_lagrangeWeight (poly : BitVec 9) {xs : List Byte} (hd : xs.Nodup) {j : Nat} (hj : j < xs.length) :
    lagrange0 poly xs j = lagrangeWeight poly xs xs[j] := by
  rw [lagrange0, lagrangeWeight, hd.erase_getElem j hj, List.getD_eq_getElem _ _ hj]

/-- One byte of the chunk recovered from the slots `sel`: each slot's payload byte times the weight of its index. -/
def recoveredByte (poly : BitVec 9) (sel : List Slot) (p : Fin 16) : Byte :=
  xorAll (sel.map fun x => gfmul poly x.pay[p] (lagrangeWeight poly (sel.map fun x => x.idx) x.idx))

/-- Slots of different indices give the chunk of `recoveredByte`. -/
theorem combineChunk_getElem_of_nodup (poly : BitVec 9) {sel : List Slot} (hd : (sel.map fun x => x.idx).Nodup) (p : Fin 16) :
    (combineChunk poly sel)[p] = recoveredByte poly sel p := by
  rw [combineChunk_getElem, recoveredByte]
  refine congrArg xorAll (List.ext_getElem (by simp) fun j _ hj => ?_)
  rw [List.length_map] at hj
  simp [lagrange0_eq_lagrangeWeight poly hd, hj]

/-! ### The order of the slots -/

theorem xorAll_perm {xs ys : List Byte} (hxy : xs.Perm ys) : xorAll xs = xorAll ys :=
  hxy.foldl_eq' (fun x _ y _ z => by rw [BitVec.xor_assoc, BitVec.xor_comm x, ← BitVec.xor_assoc]) _

section
variable {poly : BitVec 9} (h : poly.getLsbD 8 = true)
include h

theorem lagrangeWeight_perm {xs ys : List Byte} (hxy : xs.Perm ys) (a : Byte) :
    lagrangeWeight poly xs a = lagrangeWeight poly ys a :=
  (hxy.erase a).foldl_eq' (fun m _ m' _ z => by rw [gfmul_assoc h, gfmul_comm h (gfmul poly m _), ← gfmul_assoc h]) _

theorem recoveredByte_perm {sel sel' : List Slot} (hs : sel'.Perm sel) (p : Fin 16) :
    recoveredByte poly sel' p = recoveredByte poly sel p := by
  simp only [recoveredByte, lagrangeWeight_perm h (hs.map fun x => x.idx)]
  exact xorAll_perm (hs.map _)

/-- Slots of different indices give the same chunk in any order. -/
theorem combineChunk_perm {sel sel' : List Slot} (hs : sel'.Perm sel) (hd : (sel.map fun x => x.idx).Nodup) :
    combineChunk poly sel' = combineChunk poly sel := by
  have hd' : (sel'.map fun x => x.idx).Nodup := (hs.map _).nodup_iff.2 hd
  refine chunk_eq_of_bytes fun p => ?_
  rw [combineChunk_getElem_of_nodup poly hd', combineChunk_getElem_of_nodup poly hd, recoveredByte_perm h hs]

end

theorem validIdxs_perm {sh sh' : List Slot} (hs : sh'.Perm sh) : (validIdxs sh').Perm (validIdxs sh) :=
  (hs.filter _).map _

/-- COMBINE's checks do not look at the order of the indices. -/
theorem combineCheck_perm {xs xs' : List Byte} (hx : xs'.Perm xs) (t nslot : Nat) :
    combineCheck t nslot xs' = combineCheck t nslot xs := by
  simp only [combineCheck, hx.mem_iff, hx.nodup_iff, hx.length_eq]

/-- Settles O49: neither the checks nor the recovered chunk depend on the order. -/
theorem combineIgnoresTheSlotOrder : Obligations.CombineIgnoresTheSlotOrder := by
  intro s u sh' t hp hl hs h
  have hcheck : combineCheck t.toNat sh'.length (validIdxs sh') = combineCheck t.toNat s.nslot (validIdxs s.sh) := by
    rw [combineCheck_perm (validIdxs_perm hs), hs.length_eq, State.nslot]
  cases hc : combineCheck t.toNat s.nslot (validIdxs s.sh) with
  | some e =>
    rw [exec_combine_raises hl hc] at h
    cases h
    exact exec_combine_raises (s := { s with sh := sh' }) hl (hcheck.trans hc)
  | none =>
    rw [exec_combine_recovers hl hc] at h
    obtain rfl := Host.Outcome.next.inj h
    obtain ⟨-, -, hd, -⟩ := combineCheck_eq_none_iff.1 hc
    rw [exec_combine_recovers (s := { s with sh := sh' }) hl (hcheck.trans hc)]
    rw [show combineChunk s.poly (validSlots sh') = combineChunk s.poly (validSlots s.sh) from
      combineChunk_perm hp (hs.filter _) hd]
    rfl

/-! ### The lanes -/

/-- The numbers of the valid slots, ascending. -/
def State.validNumbers (s : State) : List Nat := (List.range s.nslot).filter fun k => (s.slot k).valid

theorem State.map_slot_range (s : State) : (List.range s.nslot).map s.slot = s.sh :=
  List.ext_getElem (by simp [State.nslot]) fun k _ hk => by simp [State.slot, hk]

/-- The valid slots are those of the valid numbers. -/
theorem validSlots_eq_map (s : State) : validSlots s.sh = s.validNumbers.map s.slot := by
  conv_lhs => rw [← s.map_slot_range]
  exact List.filter_map

theorem validIdxs_eq_map (s : State) : validIdxs s.sh = s.validNumbers.map fun k => (s.slot k).idx := by
  rw [validIdxs, validSlots_eq_map, List.map_map]
  rfl

/-- The recovered byte over the numbers of the valid slots. -/
theorem recoveredByte_validSlots (poly : BitVec 9) (s : State) (p : Fin 16) :
    recoveredByte poly (validSlots s.sh) p = xorAll (s.validNumbers.map fun k =>
      gfmul poly (s.slot k).pay[p] (lagrangeWeight poly (validIdxs s.sh) (s.slot k).idx)) := by
  rw [recoveredByte, ← validIdxs, validSlots_eq_map s, List.map_map]
  rfl

section
variable {a b : State} {p : Fin 16} (hn : a.nslot = b.nslot)
  (h : ∀ k, (a.slot k).valid = (b.slot k).valid ∧ (a.slot k).idx = (b.slot k).idx ∧ (a.slot k).pay[p] = (b.slot k).pay[p])
include hn h

theorem validNumbers_congr : a.validNumbers = b.validNumbers := by
  simp only [State.validNumbers, hn, fun k => (h k).1]

theorem validIdxs_congr : validIdxs a.sh = validIdxs b.sh := by
  rw [validIdxs_eq_map, validIdxs_eq_map, validNumbers_congr hn h]
  exact List.map_congr_left fun k _ => (h k).2.1

/-- The recovered byte of a lane depends on the slots' valid bits, indices and bytes of that lane (R160). -/
theorem recoveredByte_congr (poly : BitVec 9) :
    recoveredByte poly (validSlots a.sh) p = recoveredByte poly (validSlots b.sh) p := by
  rw [recoveredByte_validSlots, recoveredByte_validSlots, validNumbers_congr hn h, validIdxs_congr hn h]
  refine congrArg xorAll (List.map_congr_left fun k _ => ?_)
  obtain ⟨-, hi, hpay⟩ := h k
  rw [hi, hpay]

/-- COMBINE keeps the lanes apart (R160). -/
theorem combine_lane {a' b' : State} {t : Byte} (ha : a.errcode = 0) (hb : b.errcode = 0) (hpoly : a.poly = b.poly)
    (hxa : exec (.combine t) a = .next a') (hxb : exec (.combine t) b = .next b') :
    a'.errcode = b'.errcode ∧ (a'.errcode = 0 → a'.sec[p] = b'.sec[p]) := by
  have hcheck : combineCheck t.toNat b.nslot (validIdxs b.sh) = combineCheck t.toNat a.nslot (validIdxs a.sh) := by
    rw [hn, validIdxs_congr hn h]
  cases hc : combineCheck t.toNat a.nslot (validIdxs a.sh) with
  | some e =>
    rw [exec_combine_raises ha hc] at hxa
    rw [exec_combine_raises hb (hcheck.trans hc)] at hxb
    cases hxa
    cases hxb
    exact ⟨rfl, fun h0 => absurd h0 (errCode_ne_zero e)⟩
  | none =>
    obtain ⟨-, -, hd, -⟩ := combineCheck_eq_none_iff.1 hc
    rw [exec_combine_recovers ha hc] at hxa
    rw [exec_combine_recovers hb (hcheck.trans hc)] at hxb
    obtain rfl := Host.Outcome.next.inj hxa
    obtain rfl := Host.Outcome.next.inj hxb
    refine ⟨by rw [putSec_errcode, putSec_errcode, ha, hb], fun _ => ?_⟩
    have hd' : (validIdxs b.sh).Nodup := by rwa [← validIdxs_congr hn h]
    rw [putSec_sec, putSec_sec, combineChunk_getElem_of_nodup _ hd, combineChunk_getElem_of_nodup _ hd', ← hpoly,
      recoveredByte_congr hn h]

end

end Sys2Proof.Machine
end

section
/-!
SUPPORT. SPLIT (spec/43_shamir.md rules R160 to R163): what it answers, and the slots it leaves, from the bytes it has drawn.
-/

namespace Sys2Proof.Machine

/-! ### What SPLIT answers -/

/-- The operands of a SPLIT that runs (R163). -/
def LegalSplit (t n : Byte) (nslot : Nat) : Prop := 2 ≤ t.toNat ∧ t.toNat ≤ n.toNat ∧ n.toNat ≤ nslot

/-- The state SPLIT t, n leaves when it has drawn the bytes r (R163). -/
def State.splitWith (t n : Byte) (r : List Byte) (s : State) : State :=
  putSlots (splitSlots s.poly s.sec r t.toNat n.toNat s.nslot)
    (putRng (s.rngQueue.drop (16 * (t.toNat - 1))) (s.rngDrawn + 16 * (t.toNat - 1)) s)

/-- The bytes r are what the draws of SPLIT t answer: as many as it needs, the laid out ones first (R70, R162). -/
def State.DrawsOfSplit (s : State) (t : Byte) (r : List Byte) : Prop :=
  r.length = 16 * (t.toNat - 1) ∧ r.take s.rngQueue.length = s.rngQueue.take r.length

section
variable {s : State} {t n : Byte} (hl : s.errcode = 0)
include hl

/-- A SPLIT of other operands raises BadParameterError (R163). -/
theorem exec_split_of_bad_parameters (hpar : ¬ LegalSplit t n s.nslot) :
    exec (.split t n) s = raise .badParameter (encode (.split t n)) s :=
  (unlessLatched_clear hl).trans (if_pos hpar)

/-- A SPLIT of legal operands completes when the source can answer its draws (R70, R163). -/
theorem exec_split (hpar : LegalSplit t n s.nslot) (hd : s.CanDraw (16 * (t.toNat - 1))) :
    ∃ r, s.DrawsOfSplit t r ∧ exec (.split t n) s = .next (s.splitWith t n r) := by
  obtain ⟨⟨r, s1⟩, hr⟩ := Option.isSome_iff_exists.1 (rngDraws_isSome.2 hd)
  obtain ⟨rfl, hlen, hq⟩ := rngDraws_some hr
  exact ⟨r, ⟨hlen, hlen ▸ hq⟩, exec_of_effect (.inl hl) ⟨hpar, r, _, hr, rfl⟩⟩

/-- A SPLIT of legal operands that completes leaves the shares of some draws (R163). -/
theorem exists_draws_of_exec_split {u : State} (hpar : LegalSplit t n s.nslot) (h : exec (.split t n) s = .next u) :
    ∃ r, s.DrawsOfSplit t r ∧ u = s.splitWith t n r := by
  have hd : s.CanDraw (16 * (t.toNat - 1)) := by
    obtain ⟨h2, htn, hn⟩ := hpar
    by_contra hd
    rw [exec_split_of_not_canDraw hl h2 htn hn hd] at h
    cases h
  obtain ⟨r, hr, hx⟩ := exec_split hl hpar hd
  cases hx.symm.trans h
  exact ⟨r, hr, rfl⟩

end

/-- The command word of SPLIT t, n (R92, R163). -/
theorem encode_split (t n : Byte) :
    encode (.split t n) = 0x00000028#32 ||| (t.setWidth 32 <<< 8) ||| (n.setWidth 32 <<< 16) :=
  commandWord_eq_or 0x28 t n

/-! ### The slots it leaves -/

/-- Slots below n hold the shares, the others are cleared (R163). -/
theorem slot_splitWith {s : State} {t n : Byte} (r : List Byte) (hn : n.toNat ≤ s.nslot) (k : Nat) :
    (s.splitWith t n r).slot k = if k < n.toNat then shareSlot s.poly s.sec r t.toNat k else Slot.empty := by
  rw [State.splitWith, putSlots_slot, splitSlots]
  by_cases hk : k < s.nslot
  · simp [hk]
  · rw [if_neg (by omega)]
    simp [hk]

@[simp] theorem nslot_splitWith (s : State) (t n : Byte) (r : List Byte) : (s.splitWith t n r).nslot = s.nslot := by
  simp [State.splitWith]

theorem shareSlot_idx (poly : BitVec 9) (sec : Chunk) (r : List Byte) (t k : Nat) :
    (shareSlot poly sec r t k).idx = BitVec.ofNat 8 (k + 1) := rfl

theorem shareSlot_pay (poly : BitVec 9) (sec : Chunk) (r : List Byte) (t k : Nat) (p : Fin 16) :
    (shareSlot poly sec r t k).pay[p] = polyeval poly (laneCoeffs sec r t p) (BitVec.ofNat 8 (k + 1)) := by
  simp [shareSlot]

/-- The draws of a lane one by one (R162). -/
theorem laneCoeffs_eq_map (sec : Chunk) {r : List Byte} {t : Nat} (hr : r.length = 16 * (t - 1)) (p : Fin 16) :
    laneCoeffs sec r t p = sec[p] :: (List.range (t - 1)).map fun m => r.getD ((t - 1) * p.val + m) 0 := by
  have hp : (t - 1) * p.val + (t - 1) ≤ r.length := by
    rw [hr, ← Nat.mul_succ, Nat.mul_comm]
    exact Nat.mul_le_mul_right _ p.isLt
  refine congrArg _ (List.ext_getElem (by simp; omega) fun m _ hm => ?_)
  rw [List.length_map, List.length_range] at hm
  simp [show (t - 1) * p.val + m < r.length by omega]

@[simp] theorem laneCoeffs_length (sec : Chunk) {r : List Byte} {t : Nat} (hr : r.length = 16 * (t - 1)) (p : Fin 16) :
    (laneCoeffs sec r t p).length = t - 1 + 1 := by
  simp [laneCoeffs_eq_map sec hr]

/-- Settles O47: the draws of SPLIT, and the slots they leave. -/
theorem splitFillsTheSlots : Obligations.SplitFillsTheSlots := by
  refine fun s t n hl => ⟨fun h2 htn hn hd => ?_, fun hpar => ?_⟩
  · obtain ⟨r, ⟨hlen, hq⟩, hx⟩ := exec_split hl ⟨h2, htn, hn⟩ hd
    refine ⟨r, _, hlen, hq, hx, rfl, nslot_splitWith .., fun k hk => ?_, fun k hk => ?_⟩
    · rw [slot_splitWith r hn, if_pos hk]
      refine ⟨rfl, ?_, fun p => ?_⟩
      · have hlt : k + 1 < 2 ^ 8 := by omega
        rw [shareSlot_idx, BitVec.toNat_ofNat, Nat.mod_eq_of_lt hlt]
      · rw [shareSlot_pay, laneCoeffs_eq_map _ hlen]
    · rw [slot_splitWith r hn, if_neg (by omega)]
      exact ⟨rfl, rfl, fun p => by simp [Slot.empty]⟩
  · rw [exec_split_of_bad_parameters hl hpar, encode_split]
    rfl

/-! ### The lanes -/

/-- Where enough bytes are laid out, lane p's draws are the laid out bytes of the lane (R160, R162). -/
theorem laneCoeffs_congr {a b : State} {r r' : List Byte} {t : Byte} {p : Fin 16}
    (hqa : 16 * (t.toNat - 1) ≤ a.rngQueue.length) (hqb : 16 * (t.toNat - 1) ≤ b.rngQueue.length)
    (hr : a.DrawsOfSplit t r) (hr' : b.DrawsOfSplit t r') (hsec : a.sec[p] = b.sec[p])
    (hlane : ∀ m, m < t.toNat - 1 →
      a.rngQueue[(t.toNat - 1) * p.val + m]? = b.rngQueue[(t.toNat - 1) * p.val + m]?) :
    laneCoeffs a.sec r t.toNat p = laneCoeffs b.sec r' t.toNat p := by
  obtain ⟨hlen, hq⟩ := hr
  obtain ⟨hlen', hq'⟩ := hr'
  rw [List.take_of_length_le (hlen ▸ hqa), hlen] at hq
  rw [List.take_of_length_le (hlen' ▸ hqb), hlen'] at hq'
  rw [laneCoeffs_eq_map _ hlen, laneCoeffs_eq_map _ hlen', hsec]
  refine congrArg _ (List.map_congr_left fun m hm => ?_)
  rw [List.mem_range] at hm
  have hlt : (t.toNat - 1) * p.val + m < 16 * (t.toNat - 1) := by
    have : (t.toNat - 1) * p.val ≤ (t.toNat - 1) * 15 := Nat.mul_le_mul_left _ (by omega)
    omega
  rw [hq, hq', List.getD_eq_getElem?_getD, List.getD_eq_getElem?_getD, List.getElem?_take_of_lt hlt,
    List.getElem?_take_of_lt hlt, hlane m hm]

/-- SPLIT keeps the lanes apart (R160). -/
theorem split_lane {a b a' b' : State} {t n : Byte} {p : Fin 16} (ha : a.errcode = 0) (hb : b.errcode = 0)
    (hpoly : a.poly = b.poly) (hn : a.nslot = b.nslot) (hqa : 16 * (t.toNat - 1) ≤ a.rngQueue.length)
    (hqb : 16 * (t.toNat - 1) ≤ b.rngQueue.length) (hsec : a.sec[p] = b.sec[p])
    (hlane : ∀ m, m < t.toNat - 1 →
      a.rngQueue[(t.toNat - 1) * p.val + m]? = b.rngQueue[(t.toNat - 1) * p.val + m]?)
    (hxa : exec (.split t n) a = .next a') (hxb : exec (.split t n) b = .next b') :
    a'.errcode = b'.errcode ∧ (a'.errcode = 0 → ∀ k, (a'.slot k).pay[p] = (b'.slot k).pay[p]) := by
  by_cases hpar : LegalSplit t n a.nslot
  · obtain ⟨r, hr, rfl⟩ := exists_draws_of_exec_split ha hpar hxa
    obtain ⟨r', hr', rfl⟩ := exists_draws_of_exec_split hb (hn ▸ hpar) hxb
    obtain ⟨-, -, hslots⟩ := hpar
    refine ⟨ha.trans hb.symm, fun _ k => ?_⟩
    rw [slot_splitWith r hslots, slot_splitWith r' (hn ▸ hslots)]
    split
    · rw [shareSlot_pay, shareSlot_pay, hpoly, laneCoeffs_congr hqa hqb hr hr' hsec hlane]
    · rfl
  · rw [exec_split_of_bad_parameters ha hpar] at hxa
    rw [exec_split_of_bad_parameters hb (hn ▸ hpar)] at hxb
    cases hxa
    cases hxb
    exact ⟨rfl, fun h0 => absurd h0 (errCode_ne_zero .badParameter)⟩

/-- Settles O53: COMBINE's lanes and SPLIT's. -/
theorem lanesAreIndependent : Obligations.LanesAreIndependent :=
  ⟨fun _ _ _ _ _ _ ha hb hpoly hn h hxa hxb => combine_lane hn h ha hb hpoly hxa hxb,
   fun _ _ _ _ _ _ _ ha hb hpoly hn hqa hqb hsec hlane hxa hxb =>
    split_lane ha hb hpoly hn hqa hqb hsec hlane hxa hxb⟩

end Sys2Proof.Machine
end

section
/-!
SUPPORT. Shares as values of a polynomial over the field of residue classes (spec/43_shamir.md rules R162, R164 and R167): what
SPLIT computes in a lane is the value of the polynomial with the lane's coefficients, and what COMBINE computes is the value
at 0 of the polynomial interpolated through the shares.
-/

namespace Sys2Proof.Machine

open Polynomial

/-- The exclusive or of bytes is the sum of their classes (R142). -/
theorem residue_xorAll (poly : BitVec 9) (ys : List Byte) : residue poly (xorAll ys) = (ys.map (residue poly)).sum := by
  induction ys with
  | nil => exact residue_zero poly
  | cons y ys ih => rw [xorAll_cons, residue_xor, ih, List.map_cons, List.sum_cons]

/-! ### The polynomial of a lane -/

/-- The polynomial with the residue classes of the bytes as coefficients, from the constant term up (R145). -/
noncomputable def lanePoly (poly : BitVec 9) (c : List Byte) : (AdjoinRoot (polyOf poly))[X] :=
  c.foldr (fun a f => f * X + C (residue poly a)) 0

theorem lanePoly_cons (poly : BitVec 9) (a : Byte) (c : List Byte) :
    lanePoly poly (a :: c) = lanePoly poly c * X + C (residue poly a) := rfl

theorem coeff_lanePoly (poly : BitVec 9) (c : List Byte) (i : Nat) :
    (lanePoly poly c).coeff i = residue poly (c.getD i 0) := by
  induction c generalizing i with
  | nil => exact (coeff_zero i).trans (residue_zero poly).symm
  | cons a c ih => cases i <;> simp [lanePoly_cons, ih]

theorem degree_lanePoly_lt (poly : BitVec 9) (c : List Byte) : (lanePoly poly c).degree < c.length := by
  refine (degree_lt_iff_coeff_zero _ _).2 fun i hi => ?_
  rw [coeff_lanePoly, List.getD_eq_default _ _ hi, residue_zero]

theorem eval_zero_lanePoly_cons (poly : BitVec 9) (a : Byte) (c : List Byte) :
    (lanePoly poly (a :: c)).eval 0 = residue poly a := by
  simp [lanePoly_cons]

section
variable {poly : BitVec 9} (h : poly.getLsbD 8 = true)
include h

/-- Horner's form computes the value of the polynomial (R145). -/
theorem residue_polyeval (c : List Byte) (x : Byte) :
    residue poly (polyeval poly c x) = (lanePoly poly c).eval (residue poly x) := by
  induction c with
  | nil => exact (residue_zero poly).trans eval_zero.symm
  | cons a c ih =>
    rw [polyeval, List.foldr_cons, ← polyeval, residue_xor, residue_gfmul h, ih, lanePoly_cons]
    simp

/-! ### Interpolation at 0 -/

/-- A product accumulated from the left is the product of the classes. -/
theorem residue_foldl_gfmul (g : Byte → Byte) (ms : List Byte) (acc : Byte) :
    residue poly (ms.foldl (fun acc m => gfmul poly acc (g m)) acc) =
      residue poly acc * (ms.map fun m => residue poly (g m)).prod := by
  induction ms generalizing acc with
  | nil => simp
  | cons m ms ih => rw [List.foldl_cons, ih, residue_gfmul h, List.map_cons, List.prod_cons, mul_assoc]

variable [Fact (Irreducible (polyOf poly))]

/-- The weight of R146 is the value at 0 of Lagrange's basis polynomial. -/
theorem residue_lagrangeWeight {xs : List Byte} (hd : xs.Nodup) (a : Byte) :
    residue poly (lagrangeWeight poly xs a) = (Lagrange.basis xs.toFinset (residue poly) a).eval 0 := by
  have hset : xs.toFinset.erase a = (xs.erase a).toFinset := by
    ext m
    simp [hd.mem_erase_iff]
  have hneg : ∀ m, -residue poly m = residue poly m := fun m => neg_eq_of_add_eq_zero_left (residue_add_self poly m)
  rw [lagrangeWeight, residue_foldl_gfmul h, residue_one, one_mul, Lagrange.basis, hset, eval_prod,
    List.prod_toFinset _ (hd.erase a)]
  refine congrArg List.prod (List.map_congr_left fun m _ => ?_)
  rw [residue_gfmul h, residue_gfinv h, residue_xor, Lagrange.basisDivisor, eval_mul, eval_C, eval_sub, eval_X, eval_C,
    zero_sub, hneg, sub_eq_add_neg, hneg, mul_comm, add_comm]

/-- Values of one polynomial at enough different indices, weighted, give its constant term (R167). -/
theorem xorAll_weighted_values {c : List Byte} {xs : List Byte} (hd : xs.Nodup) (a : Byte) (hk : (a :: c).length ≤ xs.length) :
    xorAll (xs.map fun x => gfmul poly (polyeval poly (a :: c) x) (lagrangeWeight poly xs x)) = a := by
  refine residue_injective h ?_
  have hinj : Set.InjOn (residue poly) xs.toFinset := (residue_injective h).injOn
  have hdeg : (lanePoly poly (a :: c)).degree < xs.toFinset.card := by
    rw [List.toFinset_card_of_nodup hd]
    exact (degree_lanePoly_lt poly _).trans_le (by exact_mod_cast hk)
  have hinterp := Lagrange.eq_interpolate hinj hdeg
  rw [residue_xorAll, List.map_map, ← List.sum_toFinset _ hd, ← eval_zero_lanePoly_cons poly a c, hinterp,
    Lagrange.interpolate_apply, eval_finsetSum]
  refine Finset.sum_congr rfl fun x _ => ?_
  rw [Function.comp_apply, residue_gfmul h, residue_polyeval h, residue_lagrangeWeight h hd, eval_mul, eval_C]

end

/-! ### COMBINE after SPLIT -/

/-- A valid slot of the state after a SPLIT, possibly with some valid bits cleared, holds a share. -/
theorem slot_eq_shareSlot {s v : State} {t n : Byte} {r : List Byte} (hn : n.toNat ≤ s.nslot)
    (hcl : ∀ k, v.slot k = (s.splitWith t n r).slot k ∨ v.slot k = { (s.splitWith t n r).slot k with valid := false })
    {k : Nat} (hk : k ∈ v.validNumbers) : k < n.toNat ∧ v.slot k = shareSlot s.poly s.sec r t.toNat k := by
  have hv : (v.slot k).valid = true := (List.mem_filter.1 hk).2
  rcases hcl k with hs | hs
  · rw [hs, slot_splitWith r hn] at hv ⊢
    split at hv
    · next hlt => exact ⟨hlt, if_pos hlt⟩
    · cases hv
  · rw [hs] at hv
    cases hv

/-- Slots 0 to 254 get different indices. -/
theorem ofNat_succ_inj {j k : Nat} (hj : j < 255) (hk : k < 255) (h : BitVec.ofNat 8 (j + 1) = BitVec.ofNat 8 (k + 1)) :
    j = k := by
  have hmod : (j + 1) % 2 ^ 8 = (k + 1) % 2 ^ 8 := congrArg BitVec.toNat h
  omega

section
variable {v : State} {poly : BitVec 9} {sec : Chunk} {r : List Byte} {t : Nat}
  (hshare : ∀ k ∈ v.validNumbers, k < 255 ∧ v.slot k = shareSlot poly sec r t k)
include hshare

theorem validIdxs_of_shares : validIdxs v.sh = v.validNumbers.map fun k => BitVec.ofNat 8 (k + 1) := by
  rw [validIdxs_eq_map]
  refine List.map_congr_left fun k hk => ?_
  rw [(hshare k hk).2, shareSlot_idx]

theorem validIdxs_nodup_of_shares : (validIdxs v.sh).Nodup := by
  rw [validIdxs_of_shares hshare]
  exact List.Nodup.map_on (fun j hj k hk => ofNat_succ_inj (hshare j hj).1 (hshare k hk).1)
    (List.nodup_range.filter _)

theorem zero_notMem_validIdxs_of_shares : 0 ∉ validIdxs v.sh := by
  rw [validIdxs_of_shares hshare]
  intro hmem
  obtain ⟨k, hk, h0⟩ := List.mem_map.1 hmem
  have hlt := (hshare k hk).1
  have hmod : (k + 1) % 2 ^ 8 = 0 := congrArg BitVec.toNat h0
  omega

/-- Enough shares of a chunk recover it (R167). -/
theorem combineChunk_of_shares (hp : LegalPoly poly) (hr : r.length = 16 * (t - 1)) (ht : 1 ≤ t)
    (hk : t ≤ (validIdxs v.sh).length) : combineChunk poly (validSlots v.sh) = sec := by
  have h := getLsbD_eight_of_legalPoly hp
  have := fact_irreducible hp
  have hd := validIdxs_nodup_of_shares hshare
  refine chunk_eq_of_bytes fun p => ?_
  have hterms : (v.validNumbers.map fun k =>
      gfmul poly (v.slot k).pay[p] (lagrangeWeight poly (validIdxs v.sh) (v.slot k).idx)) =
      (validIdxs v.sh).map fun x =>
        gfmul poly (polyeval poly (laneCoeffs sec r t p) x) (lagrangeWeight poly (validIdxs v.sh) x) := by
    rw [validIdxs_eq_map v, List.map_map]
    refine List.map_congr_left fun k hk => ?_
    rw [Function.comp_apply, (hshare k hk).2, shareSlot_pay, shareSlot_idx]
  rw [combineChunk_getElem_of_nodup poly hd, recoveredByte_validSlots, hterms]
  refine xorAll_weighted_values h hd sec[p] ?_
  rw [← laneCoeffs, laneCoeffs_length sec hr]
  omega

end

/-- Settles O50: the valid slots hold shares of the chunk, and there are enough of them. -/
theorem combineAfterSplitRecoversTheChunk : Obligations.CombineAfterSplitRecoversTheChunk := by
  rintro s u v t n hp ⟨-, h255⟩ hl hx hu hv hns hcl hk
  have hpar : LegalSplit t n s.nslot := by
    by_contra hpar
    rw [exec_split_of_bad_parameters hl hpar] at hx
    cases hx
    exact errCode_ne_zero .badParameter hu
  obtain ⟨r, ⟨hr, -⟩, rfl⟩ := exists_draws_of_exec_split hl hpar hx
  obtain ⟨h2, htn, hn⟩ := hpar
  have hshare : ∀ k ∈ v.validNumbers, k < 255 ∧ v.slot k = shareSlot s.poly s.sec r t.toNat k := fun k hk =>
    (slot_eq_shareSlot hn hcl hk).imp_left fun hlt => by omega
  have hk' : t.toNat ≤ (validIdxs v.sh).length := by rwa [validIdxs_length]
  have hnv : t.toNat ≤ v.nslot := by
    rw [hns, nslot_splitWith]
    omega
  have hlv : v.errcode = 0 := by rw [hv]; exact hl
  have hpv : v.poly = s.poly := by rw [hv]; rfl
  have hcheck : combineCheck t.toNat v.nslot (validIdxs v.sh) = none := combineCheck_eq_none_iff.2
    ⟨⟨h2, hnv⟩, zero_notMem_validIdxs_of_shares hshare, validIdxs_nodup_of_shares hshare, hk'⟩
  have hchunk : combineChunk v.poly (validSlots v.sh) = s.sec := by
    rw [hpv]
    exact combineChunk_of_shares hshare hp hr (by omega) hk'
  rw [exec_combine_recovers hlv hcheck, hchunk]
  rfl

end Sys2Proof.Machine
end

section
/-!
SUPPORT. Fewer shares than the threshold (spec/43_shamir.md rule R164): evaluation at m points is a linear map from the polynomials
of degree below n onto the m-tuples, so every tuple of values is taken equally often, whatever the secret byte is.
-/

namespace Sys2Proof.Machine

open Polynomial

/-! ### Evaluation at m points -/

section
variable {K : Type} [Field K] {n m : Nat}

/-- The values at m points, as a linear map on the polynomials of degree below n. -/
noncomputable def evalAt (n : Nat) (x : Fin m → K) : degreeLT K n →ₗ[K] Fin m → K :=
  LinearMap.pi fun j => leval (x j) ∘ₗ (degreeLT K n).subtype

theorem evalAt_apply (x : Fin m → K) (f : degreeLT K n) (j : Fin m) : evalAt n x f j = (f : K[X]).eval (x j) := rfl

theorem finrank_degreeLT (n : Nat) : Module.finrank K (degreeLT K n) = n :=
  (degreeLTEquiv K n).finrank_eq.trans (Module.finrank_fin_fun K)

variable {x : Fin m → K} (hx : Function.Injective x) (hm : m ≤ n)
include hx hm

/-- Any values at m different points are interpolated in degree below m. -/
theorem evalAt_surjective : Function.Surjective (evalAt n x) := by
  intro z
  have hdeg : (Lagrange.interpolate Finset.univ x z).degree < n := by
    refine (Lagrange.degree_interpolate_lt z hx.injOn).trans_le ?_
    rw [Finset.card_fin]
    exact_mod_cast hm
  exact ⟨⟨_, mem_degreeLT.2 hdeg⟩, funext fun j => Lagrange.eval_interpolate_at_node z hx.injOn (Finset.mem_univ j)⟩

/-- What vanishes at m points loses m dimensions. -/
theorem finrank_ker_evalAt : Module.finrank K (LinearMap.ker (evalAt n x)) = n - m := by
  have : FiniteDimensional K (degreeLT K n) := .equiv (degreeLTEquiv K n).symm
  have hrank := (evalAt n x).finrank_range_add_finrank_ker
  rw [LinearMap.range_eq_top.2 (evalAt_surjective hx hm), finrank_top, Module.finrank_fin_fun, finrank_degreeLT] at hrank
  omega

/-- The polynomials of degree below n with given values at m points are as many as those that vanish there. -/
theorem natCard_evalAt_eq (z : Fin m → K) :
    Nat.card {f : degreeLT K n // evalAt n x f = z} = Nat.card K ^ (n - m) := by
  have : FiniteDimensional K (degreeLT K n) := .equiv (degreeLTEquiv K n).symm
  rw [← finrank_ker_evalAt hx hm, ← Module.natCard_eq_pow_finrank (K := K) (V := LinearMap.ker (evalAt n x))]
  exact Nat.card_congr (AddMonoidHom.fiberEquivKerOfSurjective (f := (evalAt n x).toAddMonoidHom)
    (evalAt_surjective hx hm) z)

end

/-! ### Draw vectors -/

/-- The polynomial whose coefficients are n draws. -/
noncomputable def drawsPoly (poly : BitVec 9) {n : Nat} (r : Fin n → Byte) : degreeLT (AdjoinRoot (polyOf poly)) n :=
  ⟨lanePoly poly (List.ofFn r), mem_degreeLT.2 (by simpa using degree_lanePoly_lt poly (List.ofFn r))⟩

section
variable {poly : BitVec 9} (h : poly.getLsbD 8 = true)
include h

/-- Draw vectors and polynomials of low degree are the same thing. -/
theorem drawsPoly_bijective (n : Nat) : Function.Bijective (drawsPoly poly (n := n)) := by
  have hcoeffs : degreeLTEquiv (AdjoinRoot (polyOf poly)) n ∘ drawsPoly poly = fun r i => residue poly (r i) := by
    funext r i
    refine (coeff_lanePoly poly (List.ofFn r) i).trans ?_
    simp
  refine ((degreeLTEquiv (AdjoinRoot (polyOf poly)) n).bijective.of_comp_iff' _).1 ?_
  rw [hcoeffs]
  exact Function.Bijective.piMap fun _ => ⟨residue_injective h, residue_surjective h⟩

variable [Fact (Irreducible (polyOf poly))]

/-- A share fixes the value of the draws' polynomial at its coordinate, once the secret byte is taken off (R145). -/
theorem polyeval_cons_eq_iff {secret x y : Byte} (hx : x ≠ 0) (c : List Byte) :
    polyeval poly (secret :: c) x = y ↔
      (lanePoly poly c).eval (residue poly x) = (residue poly y - residue poly secret) / residue poly x := by
  have hx0 : residue poly x ≠ 0 := (residue_eq_zero_iff h).not.2 hx
  rw [← (residue_injective h).eq_iff, residue_polyeval h, lanePoly_cons, eq_div_iff hx0, eq_sub_iff_add_eq]
  simp

end

/-- Settles O52: the draw vectors are counted as the polynomials of degree below t - 1 that they are. -/
theorem fewerThanThresholdSharesRevealNothing : Obligations.FewerThanThresholdSharesRevealNothing := by
  intro poly t m xs ys secret hp _ hm hinj h0
  have h := getLsbD_eight_of_legalPoly hp
  have := fact_irreducible hp
  rw [← card_adjoinRoot h, ← natCard_evalAt_eq ((residue_injective h).comp hinj) hm
    fun j => (residue poly (ys j) - residue poly secret) / residue poly (xs j)]
  refine Nat.card_congr ((Equiv.ofBijective _ (drawsPoly_bijective h (t - 1))).subtypeEquiv fun r => ?_)
  rw [funext_iff]
  exact forall_congr' fun j => polyeval_cons_eq_iff h (h0 j) _

end Sys2Proof.Machine
end

section
/-!
SUPPORT. Chunk transfer (spec/44_transfer.md rules R180 to R184): what LDSEC, STSEC, LDSH and STSH answer with the latch clear,
one lemma for each outcome.
-/

namespace Sys2Proof.Machine

section
variable {s : State} {k i : Byte} (hl : s.errcode = 0)
include hl

/-! ### LDSEC and STSEC -/

theorem exec_ldsec (hb : s.blen = 16) : exec .ldsec s = .next (putSec s.cb s) :=
  exec_of_effect (.inl hl) ⟨hb, rfl⟩

/-- An LDSEC without exactly one chunk in the codec buffer raises InvalidLengthError (R181). -/
theorem exec_ldsec_of_bad_length (hb : s.blen ≠ 16) : exec .ldsec s = raise .invalidLength (encode .ldsec) s :=
  (unlessLatched_clear hl).trans (if_pos hb)

theorem exec_stsec : exec .stsec s = .next (putCodec s.sec 16 s) :=
  exec_of_effect (.inl hl) rfl

/-! ### LDSH -/

theorem exec_ldsh (hk : k.toNat < s.nslot) (hi : i ≠ 0) (hb : s.blen = 16) :
    exec (.ldsh k i) s = .next (putSlot k.toNat ⟨true, i, s.cb⟩ s) :=
  exec_of_effect (.inl hl) ⟨hk, hi, hb, rfl⟩

/-- An LDSH to no slot or with index 0 raises BadParameterError, whatever the length (R183). -/
theorem exec_ldsh_of_bad_operand (h : s.nslot ≤ k.toNat ∨ i = 0) :
    exec (.ldsh k i) s = raise .badParameter (encode (.ldsh k i)) s :=
  (unlessLatched_clear hl).trans (if_pos h)

/-- An LDSH of good operands without exactly one chunk in the codec buffer raises InvalidLengthError (R183). -/
theorem exec_ldsh_of_bad_length (hk : k.toNat < s.nslot) (hi : i ≠ 0) (hb : s.blen ≠ 16) :
    exec (.ldsh k i) s = raise .invalidLength (encode (.ldsh k i)) s := by
  have hgood : ¬ (operand k ≥ s.nslot ∨ i = 0) := not_or.2 ⟨Nat.not_le.2 hk, hi⟩
  exact (unlessLatched_clear hl).trans ((if_neg hgood).trans (if_pos hb))

/-! ### STSH -/

theorem exec_stsh (hk : k.toNat < s.nslot) (hv : (s.slot k.toNat).valid = true) :
    exec (.stsh k) s = .next (putCodec (s.slot k.toNat).pay 16 s) :=
  exec_of_effect (.inl hl) ⟨hk, hv, rfl⟩

/-- An STSH of no slot or of a slot that holds no share raises BadParameterError (R184). -/
theorem exec_stsh_of_bad_slot (h : s.nslot ≤ k.toNat ∨ (s.slot k.toNat).valid = false) :
    exec (.stsh k) s = raise .badParameter (encode (.stsh k)) s :=
  (unlessLatched_clear hl).trans (if_pos h)

end

/-! ### The command words and the statements -/

/-- The command word of LDSH k, i (R92, R183). -/
theorem encode_ldsh (k i : Byte) :
    encode (.ldsh k i) = 0x00000032#32 ||| (k.setWidth 32 <<< 8) ||| (i.setWidth 32 <<< 16) :=
  commandWord_eq_or 0x32 k i

/-- The command word of STSH k (R92, R184). -/
theorem encode_stsh (k : Byte) : encode (.stsh k) = 0x00000033#32 ||| (k.setWidth 32 <<< 8) :=
  (commandWord_eq_or 0x33 k 0).trans BitVec.or_zero

/-- Settles O54: LDSEC's two outcomes and STSEC's one. -/
theorem ldsecAndStsecMoveTheSecretChunk : Obligations.LdsecAndStsecMoveTheSecretChunk := fun _ hl =>
  ⟨exec_ldsec hl, exec_ldsec_of_bad_length hl, exec_stsec hl⟩

/-- Settles O55: one lemma for each of the three outcomes, and `putSlot_slot` for the slots LDSH leaves. -/
theorem ldshLoadsOneSlot : Obligations.LdshLoadsOneSlot := by
  refine fun s k i hl => ⟨fun hk hi hb => ?_, fun h => ?_, fun hk hi hb => ?_⟩
  · refine ⟨_, exec_ldsh hl hk hi hb, rfl, putSlot_nslot _ _ _, ?_, fun m hm => ?_⟩
    · rw [putSlot_slot _ _ _ _ hk, if_pos rfl]
    · rw [putSlot_slot _ _ _ _ hk, if_neg hm]
  · rw [exec_ldsh_of_bad_operand hl h, encode_ldsh]
    rfl
  · rw [exec_ldsh_of_bad_length hl hk hi hb, encode_ldsh]
    rfl

/-- Settles O56: one lemma for each of the two outcomes. -/
theorem stshStoresAValidSlot : Obligations.StshStoresAValidSlot := by
  refine fun s k hl => ⟨exec_stsh hl, fun h => ?_⟩
  rw [exec_stsh_of_bad_slot hl h, encode_stsh]
  rfl

end Sys2Proof.Machine
end

section
/-!
SUPPORT. The system commands (spec/45_system.md rules R190 to R192): what NOP, ERRCLR and ZEROIZE answer in every state, and
that the buffers of a zeroized state hold 0.
-/

namespace Sys2Proof.Machine

/-! ### What the commands answer -/

/-- With the latch clear NOP has no effect, and with the latch set it is dropped (R190, R226). -/
theorem exec_nop (s : State) : exec .nop s = .next s := by
  by_cases hl : s.errcode = 0
  · exact exec_of_effect (.inl hl) rfl
  · exact exec_latched (by simp [RunsLatched]) hl

theorem exec_errclr (s : State) : exec .errclr s = .next (clearLatch s) :=
  exec_of_effect (.inr (.inl rfl)) rfl

theorem exec_zeroize (s : State) : exec .zeroize s = .next (zeroized s) :=
  exec_of_effect (.inr (.inr rfl)) rfl

/-! ### The zeroized buffers -/

theorem eq_empty_of_mem_zeroized_sh {s : State} {x : Slot} (h : x ∈ (zeroized s).sh) : x = Slot.empty :=
  List.eq_of_mem_replicate h

theorem slot_empty_pay_getElem (p : Fin 16) : Slot.empty.pay[p] = 0 :=
  Vector.getElem_replicate p.isLt

/-! ### The statements -/

/-- Settles O28: `exec_nop`, and `exec_errclr` with `clearLatch` written out. -/
theorem nopAndErrclrTouchOnlyTheLatch : Obligations.NopAndErrclrTouchOnlyTheLatch :=
  ⟨exec_nop, exec_errclr⟩

/-- Settles O29: the state after is `zeroized`, whose chunks, words and slots are replicated zeros. -/
theorem zeroizeWipesEveryBuffer : Obligations.ZeroizeWipesEveryBuffer := by
  refine fun s => ⟨zeroized s, exec_zeroize s, fun p => ?chunks, fun j => ?words, fun x hx => ?slots, ?rest⟩
  case chunks => exact ⟨Vector.getElem_replicate p.isLt, Vector.getElem_replicate p.isLt⟩
  case words => exact Vector.getElem_replicate j.isLt
  case slots =>
    obtain rfl := eq_empty_of_mem_zeroized_sh hx
    exact ⟨rfl, rfl, slot_empty_pay_getElem⟩
  case rest => simp

end Sys2Proof.Machine
end

section
/-!
SUPPORT. How a host sequence is reasoned about: `Script.Ends` says that a sequence runs to its end and what holds there, with one
rule for each way to make a sequence (spec/46_host_sequences.md rules R200 to R207, spec/20_memory.md rules R60 to R64).
-/

namespace Sys2Proof.Machine

/-! ### The rules -/

section
variable {α β : Type} {s : State} {Q : State → α → Prop}

/-- The sequence runs to its end from `s`, in a state and with a result of which `Q` holds. -/
def Script.Ends (c : Script α) (s : State) (Q : State → α → Prop) : Prop := ∃ t a, c.run s = .next (t, a) ∧ Q t a

/-- The sequence runs to its end from `s` and the host has not given up, in a state and with a result of which `Q` holds. -/
def Script.Succeeds (c : Script (Except HostError α)) (s : State) (Q : State → α → Prop) : Prop :=
  c.Ends s fun t a => ∃ x, a = .ok x ∧ Q t x

theorem Script.ends_done {a : α} (h : Q s a) : (Script.done a).Ends s Q := ⟨s, a, rfl, h⟩

theorem Script.succeeds_done {a : α} (h : Q s a) : Script.Succeeds (.done (.ok a)) s Q := Script.ends_done ⟨a, rfl, h⟩

theorem Script.ends_rd {x : Reg} {k : Reg32 → Script α} (hx : s.regAt (regNum x) = some x)
    (h : (k (readReg s x)).Ends (addAnswer (readReg s x) s) Q) : (Script.rd x k).Ends s Q := by
  rwa [Script.Ends, Script.run, portRead_of_regAt hx]

theorem Script.ends_wr {x : Reg} {v : Reg32} {k : Script α} (hx : s.regAt (regNum x) = some x) (hcmd : x ≠ .cmd)
    (h : k.Ends (writeReg v s x) Q) : (Script.wr x v k).Ends s Q := by
  have hne : regNum x ≠ 0x000 := fun h0 => hcmd (Option.some.inj (hx.symm.trans (congrArg s.regAt h0)))
  rwa [Script.Ends, Script.run, portWrite_of_ne_cmd v s hne, writeRegAt_of_regAt v hx]

theorem Script.ends_cmd {i : Instr} {s' : State} {k : Script α} (hx : exec i s = .next s') (h : k.Ends s' Q) :
    (Script.cmd i k).Ends s Q := by
  have hw : portWrite (regNum .cmd) (encode i) s = .next s' := (runCommand_of_ok s (decode_encode i)).trans hx
  rwa [Script.Ends, Script.cmd, Script.run, hw]

/-- Performing one sequence and then another is performing the second where the first has ended. -/
theorem Script.run_andThen {t : State} {a : α} {c : Script α} (f : α → Script β) (h : c.run s = .next (t, a)) :
    (c.andThen f).run s = (f a).run t := by
  induction c generalizing s with
  | done b => cases h; rfl
  | rd r k ih => exact ih _ h
  | wr r v k ih =>
    obtain ⟨s', hw, hk⟩ := Script.run_wr_next h
    rw [Script.andThen, Script.run, hw]
    exact ih hk

theorem Script.ends_andThen {c : Script α} {f : α → Script β} {R : State → β → Prop} (hc : c.Ends s Q)
    (hf : ∀ t a, Q t a → (f a).Ends t R) : (c.andThen f).Ends s R := by
  obtain ⟨t, a, hrun, hQ⟩ := hc
  rw [Script.Ends, Script.run_andThen f hrun]
  exact hf t a hQ

theorem Script.ends_orStop {c : Script (Except HostError α)} {f : α → Script (Except HostError β)}
    {R : State → Except HostError β → Prop} (hc : c.Succeeds s Q) (hf : ∀ t a, Q t a → (f a).Ends t R) :
    (c.orStop f).Ends s R := by
  refine Script.ends_andThen hc ?_
  rintro t _ ⟨a, rfl, hQ⟩
  exact hf t a hQ

/-- What holds at the end may be weakened. -/
theorem Script.Ends.imp {c : Script α} {R : State → α → Prop} (hc : c.Ends s Q) (h : ∀ t a, Q t a → R t a) :
    c.Ends s R := by
  obtain ⟨t, a, hrun, hQ⟩ := hc
  exact ⟨t, a, hrun, h t a hQ⟩

end

/-! ### The transactions -/

/-- A register that exists whatever NSLOT is, is reached at its number (R61). -/
theorem regAt_of_fixed {x : Reg} (hx : x.wellFormed 0 = true) (s : State) : s.regAt (regNum x) = some x := by
  rw [State.regAt, regNum, BitVec.toNat_ofNat, Nat.mod_eq_of_lt (number_lt_of_wellFormed (Nat.zero_le _) hx)]
  refine regAtNumber_eq_some.mpr ⟨?_, rfl⟩
  cases x
  case shidx | shpay => simp [Reg.wellFormed] at hx
  all_goals rfl

section
variable {α : Type} {s : State} {Q : State → α → Prop}

theorem Script.ends_rd_fixed {x : Reg} {k : Reg32 → Script α} (hx : x.wellFormed 0 = true)
    (h : (k (readReg s x)).Ends (addAnswer (readReg s x) s) Q) : (Script.rd x k).Ends s Q :=
  Script.ends_rd (regAt_of_fixed hx s) h

theorem Script.ends_wr_fixed {x : Reg} {v : Reg32} {k : Script α} (hx : x.wellFormed 0 = true) (hcmd : x ≠ .cmd)
    (h : k.Ends (writeReg v s x) Q) : (Script.wr x v k).Ends s Q :=
  Script.ends_wr (regAt_of_fixed hx s) hcmd h

/-- With no error latched the host goes on (R205, R206). -/
theorem checkErrcode_succeeds (hl : s.errcode = 0) :
    checkErrcode.Succeeds s fun t _ => t = addAnswer 0 s := by
  have hread : readReg s .errcode = 0 := by rw [readReg, hl]; rfl
  refine Script.ends_rd_fixed rfl ?_
  rw [hread]
  exact Script.ends_done ⟨(), rfl, rfl⟩

end

/-! ### Buffers of sixteen bytes -/

/-- Writing back what a register of a buffer holds changes nothing. -/
theorem setChunkReg_chunkReg (x : Chunk) (q : Fin 4) : setChunkReg x q (chunkReg x q) = x := by
  refine chunk_eq_of_chunkReg fun q' => ?_
  rw [chunkReg_setChunkReg]
  split
  · next h => rw [h]
  · rfl

/-- A byte of a buffer, read from the register that shows it (R69). -/
theorem byteOf32_chunkReg (x : Chunk) (q i : Fin 4) : byteOf32 (chunkReg x q) i.val = x[4 * q.val + i.val] := by
  have hdiv : (4 * q.val + i.val) / 4 = q.val := by omega
  have hmod : (4 * q.val + i.val) % 4 = i.val := by omega
  have hset : byteOf32 (chunkReg x q) i.val = (setChunkReg x q (chunkReg x q))[4 * q.val + i.val] := by
    simp only [setChunkReg, Vector.getElem_ofFn, hdiv, hmod, if_true]
  rw [hset]
  congr 1
  exact setChunkReg_chunkReg x q

theorem bytesOfReg_chunkReg (x : Chunk) (q : Fin 4) :
    bytesOfReg (chunkReg x q) = [x[4 * q.val], x[4 * q.val + 1], x[4 * q.val + 2], x[4 * q.val + 3]] := by
  rw [bytesOfReg]
  exact congrArg₂ _ (byteOf32_chunkReg x q 0) (congrArg₂ _ (byteOf32_chunkReg x q 1)
    (congrArg₂ _ (byteOf32_chunkReg x q 2) (congrArg₂ _ (byteOf32_chunkReg x q 3) rfl)))

/-- The four registers of a buffer, read in order, give its sixteen bytes (R69). -/
theorem bytesOfReg_chunkRegs (x : Chunk) :
    bytesOfReg (chunkReg x 0) ++ bytesOfReg (chunkReg x 1) ++ bytesOfReg (chunkReg x 2) ++ bytesOfReg (chunkReg x 3) =
      x.toList := by
  have hbytes : x.toList = List.ofFn fun p : Fin 16 => x[p] :=
    List.ext_getElem (by simp) fun p _ _ => by rw [List.getElem_ofFn]; rfl
  rw [hbytes]
  simp only [bytesOfReg_chunkReg]
  rfl

theorem chunkOfList_toList (x : Chunk) : chunkOfList x.toList = x :=
  Vector.ext fun p hp => by rw [chunkOfList, Vector.getElem_ofFn, toList_getD x 0 ⟨p, hp⟩]; rfl

theorem toList_chunkOfList {b : List Byte} (hb : b.length = 16) : (chunkOfList b).toList = b := by
  have := take_toList_ofFn_getD (n := 16) (xs := b) 0 hb.le
  rwa [List.take_of_length_le (by simp [hb])] at this

/-- Writing the four registers for the bytes `b` leaves a buffer of these bytes, whatever it was before (R69). -/
theorem setChunkRegs_eq_chunkOfList (x : Chunk) (b : List Byte) :
    setChunkReg (setChunkReg (setChunkReg (setChunkReg x 0 (regOfBytes b 0)) 1 (regOfBytes b 1)) 2 (regOfBytes b 2)) 3
      (regOfBytes b 3) = chunkOfList b := by
  have hreg : ∀ q : Fin 4, chunkReg (chunkOfList b) q = regOfBytes b q := fun q => by
    simp [chunkReg, chunkOfList, regOfBytes]
  refine chunk_eq_of_chunkReg fun q => ?_
  simp only [chunkReg_setChunkReg, hreg]
  fin_cases q <;> rfl

/-! ### Reads and writes of a whole buffer -/

/-- The second of two writes of the codec buffer is the one that stays. -/
theorem putCodec_putCodec (x y : Chunk) (m n : BitVec 5) (s : State) : putCodec x m (putCodec y n s) = putCodec x m s := rfl

theorem writeReg_cb (v : Reg32) (s : State) (q : Fin 4) :
    writeReg v s (.cb q) = putCodec (setChunkReg s.cb q v) s.blen s := rfl

theorem writeReg_blen_sixteen (s : State) : writeReg 16 s .blen = putCodec s.cb 16 s := rfl

/-- An answer is the host's: no register shows it (R62). -/
theorem readReg_addAnswer (v : Reg32) (s : State) (x : Reg) : readReg (addAnswer v s) x = readReg s x := by
  cases x <;> rfl

/-- The answers of the host after reading the four registers of a buffer (R69). -/
def State.afterChunkRead (x : Chunk) (s : State) : State :=
  addAnswer (chunkReg x 3) (addAnswer (chunkReg x 2) (addAnswer (chunkReg x 1) (addAnswer (chunkReg x 0) s)))

section
variable {α : Type} {s : State} {Q : State → α → Prop}

/-- Reading four registers that show a buffer gives its sixteen bytes (R69). -/
theorem ends_rdChunk {x : Chunk} {reg : Fin 4 → Reg} {k : List Byte → Script α} (hreg : ∀ q, (reg q).wellFormed 0 = true)
    (hread : ∀ q, readReg s (reg q) = chunkReg x q) (h : (k x.toList).Ends (s.afterChunkRead x) Q) :
    (rdChunk reg k).Ends s Q := by
  refine Script.ends_rd_fixed (hreg 0) (Script.ends_rd_fixed (hreg 1) (Script.ends_rd_fixed (hreg 2)
    (Script.ends_rd_fixed (hreg 3) ?_)))
  simpa only [readReg_addAnswer, hread, bytesOfReg_chunkRegs, State.afterChunkRead] using h

theorem ends_wrCodecChunk {b : List Byte} {k : Script α} (h : k.Ends (putCodec (chunkOfList b) 16 s) Q) :
    (wrCodecChunk b k).Ends s Q := by
  refine Script.ends_wr_fixed rfl (by decide) (Script.ends_wr_fixed rfl (by decide) (Script.ends_wr_fixed rfl (by decide)
    (Script.ends_wr_fixed rfl (by decide) (Script.ends_wr_fixed rfl (by decide) ?_))))
  simpa only [writeReg_cb, writeReg_blen_sixteen, putCodec_cb, putCodec_blen, putCodec_putCodec,
    setChunkRegs_eq_chunkOfList] using h

end

end Sys2Proof.Machine
end

section
/-!
SUPPORT. Words in and out of the SSCE (spec/46_host_sequences.md rules R200 to R204): the text of a dictionary entry leads LDWORD
back to the entry, so a list of texts that was fetched is looked up as the indices it was fetched from.
-/

namespace Sys2Proof.Machine

/-! ### The text of an entry -/

/-- The text of the dictionary word of index x, as the host spells what FETCH delivers (R115, R202). -/
def romText (d : Rom) (x : WordIdx) : List Byte := textOfChars (romRead d x)

/-- A word is its eight characters (R28). -/
theorem append_charAt (x : Chars) :
    (charAt x 7 ++ charAt x 6 ++ charAt x 5 ++ charAt x 4 ++ charAt x 3 ++ charAt x 2 ++ charAt x 1 ++ charAt x 0 :
      BitVec 64) = x := by
  refine BitVec.eq_of_getLsbD_eq fun i hi => ?_
  simp only [charAt]
  rw [BitVec.getLsbD_append, BitVec.getLsbD_append, BitVec.getLsbD_append, BitVec.getLsbD_append, BitVec.getLsbD_append,
    BitVec.getLsbD_append, BitVec.getLsbD_append]
  simp only [BitVec.getLsbD_extractLsb']
  interval_cases i <;> simp

/-- Cutting off what follows the first 0x00 changes no position when only 0x00 follows it. -/
theorem takeWhile_ne_zero_getD {l : List Byte} (h : l.Pairwise fun a b => a = 0 → b = 0) (i : Nat) :
    (l.takeWhile fun b => b != 0).getD i 0 = l.getD i 0 := by
  induction l generalizing i with
  | nil => rfl
  | cons a l ih =>
    obtain ⟨ha, hl⟩ := List.pairwise_cons.1 h
    by_cases h0 : a = 0
    · subst h0
      have hzero : ∀ b ∈ (0 : Byte) :: l, b = 0 := by simpa using fun b hb => ha b hb rfl
      rw [List.takeWhile_cons_of_neg (by simp)]
      by_cases hi : i < ((0 : Byte) :: l).length
      · rw [List.getD_eq_getElem _ _ hi, hzero _ (List.getElem_mem hi)]
        rfl
      · rw [List.getD_eq_default _ _ (Nat.le_of_not_lt hi)]
        rfl
    · rw [List.takeWhile_cons_of_pos (by simpa using h0)]
      cases i with
      | zero => rfl
      | succ i => simpa using ih hl i

section
variable {x : Chars} (h : LegalEntry x)
include h

/-- In a legal entry only 0x00 follows a 0x00 (R40). -/
theorem charAt_eq_zero_of_le {c e : Nat} (hce : c ≤ e) (he : e ≤ 7) (hc : charAt x c = 0) : charAt x e = 0 := by
  induction e, hce using Nat.le_induction with
  | base => exact hc
  | succ e _ ih => exact h.2 e (by omega) (ih (by omega))

/-- The text of a legal entry has the entry's characters in their places, 0x00 past its end (R28, R40). -/
theorem textOfChars_getD {c : Nat} (hc : c < 8) : (textOfChars x).getD c 0 = charAt x c := by
  have hpair : ((List.range 8).map (charAt x)).Pairwise fun a b => a = 0 → b = 0 := by
    refine List.pairwise_map.2 (List.pairwise_lt_range.imp_of_mem fun _ he hlt => ?_)
    rw [List.mem_range] at he
    exact charAt_eq_zero_of_le h hlt.le (by omega)
  rw [textOfChars, takeWhile_ne_zero_getD hpair]
  simp [hc]

/-- A legal entry is the characters of its text (R28, R200). -/
theorem charsOfText_textOfChars : charsOfText (textOfChars x) = x := by
  simp (disch := decide) only [charsOfText, textOfChars_getD h, append_charAt]

/-- The text of a legal entry is neither empty nor longer than a word (R40). -/
theorem textOfChars_length : (textOfChars x).length ≠ 0 ∧ (textOfChars x).length ≤ 8 := by
  refine ⟨fun h0 => h.1 ?_, ?_⟩
  · rw [← textOfChars_getD h (by decide), List.getD_eq_default _ _ h0.le]
  · exact (List.takeWhile_prefix _).length_le.trans_eq (by simp)

end

/-! ### LDWORD -/

/-- The state LOOKUP leaves when it finds the word of index x (R114). -/
def State.appended (x : WordIdx) (s : State) : State :=
  putWords (s.w.setIfInBounds s.wcnt.toNat x) (s.wcnt + 1) s

/-- Different entries are told apart by a LOOKUP: it finds the one that WORDIN holds (R40, R114). -/
theorem exec_lookup_of_legal {s : State} {x : WordIdx} (hrom : LegalRom s.rom) (hl : s.errcode = 0)
    (hw : s.wcnt.toNat < 12) (hx : s.wordin = romRead s.rom x) : exec .lookup s = .next (s.appended x) := by
  have hne : s.wcnt ≠ 12 := fun h => by simp [h] at hw
  have hfound := exec_lookup_of_least (i := ⟨x.toNat, x.isLt⟩) hl hne hx.symm fun i' hlt hi' =>
    hlt.ne (hrom.2 _ _ (hi'.trans hx))
  rwa [BitVec.ofNat_toNat, BitVec.setWidth_eq] at hfound

/-- Writing the entry after the first n makes it the last of the first n + 1. -/
theorem take_succ_set {α : Type} {l : List α} {n : Nat} (a : α) (hn : n < l.length) :
    (l.set n a).take (n + 1) = l.take n ++ [a] := by
  rw [List.take_add_one, List.take_set_of_le le_rfl, List.getElem?_set_self hn]
  rfl

theorem appended_wcnt_toNat {s : State} {x : WordIdx} (hw : s.wcnt.toNat < 12) :
    (s.appended x).wcnt.toNat = s.wcnt.toNat + 1 := by
  rw [State.appended, putWords_wcnt, BitVec.toNat_add]
  exact Nat.mod_eq_of_lt (show s.wcnt.toNat + 1 < 16 by omega)

/-- LOOKUP appends the index to the codec words (R26, R114). -/
theorem appended_codecWords {s : State} {x : WordIdx} (hw : s.wcnt.toNat < 12) :
    (s.appended x).codecWords = s.codecWords ++ [x] := by
  rw [State.codecWords, appended_wcnt_toNat hw, State.codecWords, ← take_succ_set x (by simpa using hw)]
  simp [State.appended]

/-- What the words looked up so far have left: they are the codec words, no error is latched, and the ROM and the slots are as in
the state `s` before them. -/
structure LookedUp (s : State) (xs : List WordIdx) (t : State) : Prop where
  words : t.codecWords = xs
  count : t.wcnt.toNat = xs.length
  clear : t.errcode = 0
  rom : t.rom = s.rom
  sh : t.sh = s.sh

theorem lookedUp_wclr {s : State} (hl : s.errcode = 0) : LookedUp s [] (putWords (Vector.replicate 12 0) 0 s) :=
  ⟨by simp [State.codecWords], rfl, hl, rfl, rfl⟩

section
variable {s t : State} {xs : List WordIdx} (hrom : LegalRom s.rom)
include hrom

/-- LDWORD of a dictionary word's text appends the word's index (R200). -/
theorem ldword_succeeds (h : LookedUp s xs t) (hlen : xs.length < 12) (x : WordIdx) :
    (ldword (romText s.rom x)).Succeeds t fun u _ => LookedUp s (xs ++ [x]) u := by
  obtain ⟨hwords, hcount, hclear, hr, hsh⟩ := h
  have hentry : LegalEntry (romRead s.rom x) := hrom.1 ⟨x.toNat, x.isLt⟩
  obtain ⟨hne, hle⟩ := textOfChars_length hentry
  have hw : t.wcnt.toNat < 12 := hcount ▸ hlen
  rw [romText, ldword, if_neg (by omega), charsOfText_textOfChars hentry]
  refine Script.ends_wr_fixed rfl (by decide) (Script.ends_wr_fixed rfl (by decide) ?_)
  have hin : writeReg (charsHi (romRead s.rom x)) (writeReg (charsLo (romRead s.rom x)) t .wordinLo) .wordinHi =
      putWordin (romRead s.rom x) t := by
    simp only [writeReg, putWordin_wordin, charsLo_charsOfHalves, charsOfHalves_chars]
    rfl
  rw [hin]
  have hword : (putWordin (romRead s.rom x) t).wordin = romRead t.rom x := by rw [putWordin_wordin, hr]
  refine Script.ends_cmd (exec_lookup_of_legal (hr ▸ hrom) hclear hw hword) ?_
  refine Script.Ends.imp (checkErrcode_succeeds ?_) ?_
  · exact hclear
  rintro _ _ ⟨-, rfl, rfl⟩
  refine ⟨(), rfl, ?words, ?count, hclear, hr, hsh⟩
  case words => exact (appended_codecWords hw).trans (congrArg (· ++ [x]) hwords)
  case count => exact (appended_wcnt_toNat (x := x) hw).trans (by simpa using hcount)

/-- LDWORD of the texts of a list of words appends their indices in order (R201, R203). -/
theorem ldwords_succeeds (ys : List WordIdx) (h : LookedUp s xs t) (hlen : xs.length + ys.length ≤ 12) :
    (ldwords (ys.map (romText s.rom))).Succeeds t fun u _ => LookedUp s (xs ++ ys) u := by
  induction ys generalizing xs t with
  | nil => exact Script.succeeds_done (by rwa [List.append_nil])
  | cons y ys ih =>
    rw [List.length_cons] at hlen
    refine Script.ends_orStop (ldword_succeeds hrom h (by omega) y) fun u _ hu => ?_
    rw [List.append_cons]
    exact ih hu (by rw [List.length_append, List.length_singleton]; omega)

end

/-! ### DECODE -/

/-- DECODE of the texts of at most twelve words gives the bytes the words unpack into (R201). -/
theorem decodeWords_succeeds {s : State} (hrom : LegalRom s.rom) (hl : s.errcode = 0) {xs : List WordIdx}
    (hlen : xs.length ≤ 12) :
    (decodeWords (xs.map (romText s.rom))).Succeeds s fun _ b => b = unpack xs := by
  refine Script.ends_cmd (exec_of_effect (.inl hl) rfl) ?_
  refine Script.ends_orStop (ldwords_succeeds hrom xs (lookedUp_wclr hl) (by simpa using hlen)) fun t _ ht => ?_
  refine Script.ends_cmd (exec_unpack ht.clear) (Script.ends_rd_fixed rfl
    (ends_rdChunk (fun _ => rfl) (fun _ => rfl) (Script.succeeds_done ?_)))
  have hblen : (readReg t.unpacked .blen).toNat = t.unpacked.blen.toNat := by
    rw [readReg, BitVec.toNat_setWidth]
    omega
  rw [hblen]
  exact (unpacked_codecBytes t).trans (congrArg unpack (ht.words.trans (List.nil_append xs)))

/-! ### ENCODE -/

/-- FETCH and the reads of WORDOUT from position j up give the texts of the codec words from there on (R202, R204). -/
theorem fetchTexts_ends {s : State} (hl : s.errcode = 0) {j : Nat} (ys : List WordIdx) (hys : s.codecWords.drop j = ys) :
    (fetchTexts ys.length j).Ends s fun _ texts => texts = ys.map (romText s.rom) := by
  induction ys generalizing s j with
  | nil => exact Script.ends_done rfl
  | cons y ys ih =>
    have hj : j < s.codecWords.length := by
      by_contra hj
      rw [List.drop_of_length_le (by omega)] at hys
      cases hys
    obtain ⟨hy, hrest⟩ := List.cons.inj ((List.drop_eq_getElem_cons hj).symm.trans hys)
    have hmin := codecWords_length s
    have hj8 : (BitVec.ofNat 8 j).toNat = j := by rw [BitVec.toNat_ofNat]; omega
    have hword : wordAt s.w (BitVec.ofNat 8 j).toNat = y := by
      rw [hj8, wordAt, ← hy, ← List.getD_eq_getElem _ 0 hj, codecWords_getD, if_pos (by omega)]
    refine Script.ends_cmd (exec_fetch_of_lt hl (by omega)) (Script.ends_rd_fixed rfl (Script.ends_rd_fixed rfl ?_))
    refine Script.ends_andThen (ih ?_ ?_) ?_
    · exact hl
    · exact hrest
    rintro t _ rfl
    refine Script.ends_done ?_
    simp only [hword, readReg, addAnswer_wordout, putWordout_wordout, charsOfHalves_chars]
    rfl

/-- ENCODE gives the texts of the words the codec bytes pack into (R202). -/
theorem encodeWords_ends {s : State} (hl : s.errcode = 0) :
    encodeWords.Ends s fun _ texts => texts = (pack s.codecBytes).map (romText s.rom) := by
  refine Script.ends_cmd (exec_pack hl) (Script.ends_rd_fixed rfl ?_)
  have hcount : (readReg s.packed .wcnt).toNat = (pack s.codecBytes).length := by
    rw [readReg, BitVec.toNat_setWidth, ← packed_wcnt_toNat]
    omega
  rw [hcount]
  exact fetchTexts_ends (s := addAnswer _ s.packed) (j := 0) hl _ (packed_codecWords s)

/-- A whole chunk of codec bytes is the sixteen bytes of CB (R25). -/
theorem codecBytes_of_full {s : State} (hb : s.blen = 16) : s.codecBytes = s.cb.toList := by
  rw [State.codecBytes, hb]
  exact List.take_of_length_le (by simp)

/-- A whole chunk packs into twelve words, which unpack into it again (R118). -/
theorem pack_chunk {b : List Byte} (hb : b.length = 16) : (pack b).length = 12 ∧ unpack (pack b) = b := by
  rw [pack_length, unpack_pack, hb]
  exact ⟨rfl, rfl⟩

/-- Settles O58: ENCODE gives the texts of the packed chunk, and DECODE of these unpacks it. -/
theorem decodingTheEncodedWordsRestoresTheChunk : Obligations.DecodingTheEncodedWordsRestoresTheChunk := by
  intro s s' hrom hr hl hl' hb
  obtain ⟨hlen, hback⟩ := pack_chunk (b := s.cb.toList) (by simp)
  obtain ⟨t, _, hrun, rfl⟩ := encodeWords_ends hl
  rw [codecBytes_of_full hb, ← hr] at hrun
  obtain ⟨t', _, hrun', _, rfl, rfl⟩ := decodeWords_succeeds (hr ▸ hrom) hl' hlen.le
  rw [hback] at hrun'
  exact ⟨t, t', _, hrun, by rw [List.length_map, hlen], hrun'⟩

end Sys2Proof.Machine
end

section
/-!
SUPPORT. A share as a ShareMnemonic (spec/46_host_sequences.md rules R203 and R204): the twelve words of a share carry its index
in the field of the last word, and its payload is what they unpack into whatever the field holds (spec/41_sharecoder.md R134).
-/

namespace Sys2Proof.Machine

/-! ### The slot registers -/

/-- The registers of a slot that exists are reached at their numbers (R61). -/
theorem regAt_shidx {s : State} {k : Nat} (hs : s.nslot ≤ 255) (hk : k < s.nslot) :
    s.regAt (regNum (.shidx k)) = some (.shidx k) :=
  State.regAt_regNum hs (decide_eq_true hk)

/-- The low byte of SHIDXk is the index of the slot (R61). -/
theorem setWidth_shidxReg (x : Slot) : (shidxReg x).setWidth 8 = x.idx :=
  BitVec.setWidth_append_eq_right

/-! ### SHARE_OUT -/

/-- A whole chunk packs into twelve words (R116). -/
theorem packed_wcnt_of_full {s : State} (hb : s.blen = 16) : s.packed.wcnt = 12 := by
  refine BitVec.eq_of_toNat_eq ?_
  rw [packed_wcnt_eq (by simp [hb]), hb]
  rfl

/-- A whole chunk comes back from PACK and UNPACK (R118). -/
theorem packed_unpacked_of_full {s : State} (hb : s.blen = 16) :
    s.packed.unpacked.cb = s.cb ∧ s.packed.unpacked.blen = 16 := by
  refine ⟨chunk_eq_of_bytes fun p => ?_, BitVec.eq_of_toNat_eq ?_⟩
  · rw [packed_unpacked_cb, hb]
    exact if_pos p.isLt
  · rw [packed_unpacked_blen_toNat (by simp [hb]), hb]
    rfl

/-- The state with the twelve words of the share x packed and its index embedded, as SHARE_OUT leaves it before its fetches
(R204). -/
def State.shareWords (x : Slot) (s : State) : State := (putCodec x.pay 16 s).packed.embedded x.idx

theorem shareWords_wcnt (x : Slot) (s : State) : (s.shareWords x).wcnt = 12 :=
  packed_wcnt_of_full (s := putCodec x.pay 16 s) rfl

/-- SHARE_OUT gives the texts of the share's twelve words (R204). -/
theorem shareOut_ends {s : State} {k : Byte} (hl : s.errcode = 0) (hs : s.nslot ≤ 255) (hk : k.toNat < s.nslot)
    (hv : (s.slot k.toNat).valid = true) (h1 : 1 ≤ (s.slot k.toNat).idx.toNat) (h15 : (s.slot k.toNat).idx.toNat ≤ 15) :
    (shareOut k).Ends s fun _ texts =>
      texts = (s.shareWords (s.slot k.toNat)).codecWords.map (romText s.rom) := by
  refine Script.ends_rd (regAt_shidx hs hk) ?_
  rw [readReg, setWidth_shidxReg]
  refine Script.ends_cmd (exec_stsh (s := addAnswer _ s) hl hk hv) (Script.ends_cmd (exec_pack hl) ?_)
  refine Script.ends_cmd (exec_embed hl h1 h15 (shareWords_wcnt (s.slot k.toNat) s)) ?_
  have hlen := codecWords_length_of_full (shareWords_wcnt (s.slot k.toNat) s)
  have hends := fetchTexts_ends (s := (addAnswer (shidxReg (s.slot k.toNat)) s).shareWords (s.slot k.toNat)) (j := 0) hl _ rfl
  rw [List.drop_zero, codecWords_length_of_full (shareWords_wcnt _ _)] at hends
  exact hends

/-! ### SHARE_IN -/

/-- The words of a share, their index field cleared, are its packed payload (R134). -/
theorem shareWords_clearedWords (x : Slot) (s : State) (h15 : x.idx.toNat ≤ 15) :
    (s.shareWords x).clearedWords = (putCodec x.pay 16 s).packed.clearedWords :=
  embedded_clearedWords h15 _

/-- A port read before an UNPACK and one after it leave the same (R62, R117). -/
theorem addAnswer_unpacked (v : Reg32) (s : State) : (addAnswer v s).unpacked = addAnswer v s.unpacked := rfl

theorem unpacked_errcode (s : State) : s.unpacked.errcode = s.errcode := by rw [State.unpacked, putCodec_errcode]

theorem unpacked_nslot (s : State) : s.unpacked.nslot = s.nslot := by rw [State.unpacked, putCodec_nslot]

theorem extracted_errcode (s : State) : s.extracted.errcode = s.errcode := by
  rw [State.extracted, putIdxr_errcode, putW_errcode]

theorem extracted_nslot (s : State) : s.extracted.nslot = s.nslot := by rw [State.extracted, putIdxr_nslot, putW_nslot]

/-- UNPACK gives the payload of a share whose words were looked up and extracted (R118, R134). -/
theorem extracted_unpacked_of_shareWords {s t : State} {x : Slot} (hs : s.errcode = 0) (ht : t.errcode = 0) (hw : t.wcnt = 12)
    (hwords : t.w = (s.shareWords x).w) (h15 : x.idx.toNat ≤ 15) :
    t.extracted.unpacked.cb = x.pay ∧ t.extracted.unpacked.blen = 16 := by
  have hclear : t.extracted.clearedWords = (putCodec x.pay 16 s).packed.clearedWords := by
    rw [extracted_clearedWords, ← shareWords_clearedWords x s h15, State.clearedWords, State.clearedWords, hwords]
  obtain ⟨hcb, hblen⟩ := unpacked_eq_of_clearedWords_eq (s := (putCodec x.pay 16 s).packed) (t := t.extracted) hs ht
    (shareWords_wcnt x s) hw hclear
  obtain ⟨hpay, h16⟩ := packed_unpacked_of_full (s := putCodec x.pay 16 s) rfl
  exact ⟨hcb.trans hpay, hblen.trans h16⟩

/-- EXTRACT reads the index of a share whose words were looked up (R132, R133). -/
theorem extracted_idxr_of_shareWords {s t : State} {x : Slot} (hwords : t.w = (s.shareWords x).w) (h15 : x.idx.toNat ≤ 15) :
    t.extracted.idxr.toNat = x.idx.toNat := by
  have hidxr : t.extracted.idxr = (s.shareWords x).extracted.idxr := congrArg (fun w : WordBuf => indexField w[11]) hwords
  rw [hidxr]
  exact embedded_extracted_idxr h15 _

/-- LDSH of a share's index makes the slot that share when the codec buffer holds its payload (R183). -/
theorem ldsh_succeeds {s : State} {k : Byte} {x : Slot} (hl : s.errcode = 0) (hk : k.toNat < s.nslot) (hi : x.idx ≠ 0)
    (hv : x.valid = true) (hb : s.blen = 16) (hcb : s.cb = x.pay) :
    Script.Succeeds (.cmd (.ldsh k x.idx) (.done (.ok x.idx))) s fun t i =>
      i = x.idx ∧ t.slot k.toNat = x ∧ t.errcode = 0 := by
  refine Script.ends_cmd (exec_ldsh hl hk hi hb) (Script.succeeds_done ⟨rfl, ?_, hl⟩)
  rw [putSlot_slot _ _ _ _ hk, if_pos rfl]
  exact Slot.ext hv.symm rfl hcb

/-- SHARE_IN of the texts of a share's twelve words loads the share into the slot and returns its index (R203). -/
theorem shareIn_succeeds {s s' : State} {k : Byte} {x : Slot} (hrom : LegalRom s'.rom) (hl : s.errcode = 0)
    (hl' : s'.errcode = 0) (hk : k.toNat < s'.nslot) (hv : x.valid = true) (h1 : 1 ≤ x.idx.toNat) (h15 : x.idx.toNat ≤ 15) :
    (shareIn k ((s.shareWords x).codecWords.map (romText s'.rom))).Succeeds s' fun t i =>
      i = x.idx ∧ t.slot k.toNat = x ∧ t.errcode = 0 := by
  have hlen := codecWords_length_of_full (shareWords_wcnt x s)
  refine Script.ends_cmd (exec_of_effect (.inl hl') rfl) ?_
  refine Script.ends_orStop (ldwords_succeeds hrom _ (lookedUp_wclr hl') (by simp [hlen])) fun t _ ht => ?_
  obtain ⟨hwords, hcount, hclear, -, hsh⟩ := ht
  rw [List.nil_append] at hwords hcount
  have hw : t.wcnt = 12 := BitVec.eq_of_toNat_eq (hcount.trans hlen)
  have hbuf : t.w = (s.shareWords x).w := by
    rw [codecWords_of_full hw, codecWords_of_full (shareWords_wcnt x s)] at hwords
    exact Vector.toList_inj.1 hwords
  obtain ⟨hcb, hblen⟩ := extracted_unpacked_of_shareWords hl hclear hw hbuf h15
  have hidx : (readReg t.extracted .idxr).setWidth 8 = x.idx := BitVec.eq_of_toNat_eq <| by
    have := extracted_idxr_of_shareWords hbuf h15
    rw [readReg, BitVec.toNat_setWidth, BitVec.toNat_setWidth, this]
    omega
  have hne : x.idx ≠ 0 := fun h0 => by simp [h0] at h1
  refine Script.ends_cmd (exec_extract hclear hw) (Script.ends_rd_fixed rfl ?_)
  rw [hidx]
  refine Script.ends_cmd (exec_unpack hclear) ?_
  rw [addAnswer_unpacked]
  refine ldsh_succeeds ?_ ?_ hne hv hblen hcb
  · rw [addAnswer_errcode, unpacked_errcode, extracted_errcode, hclear]
  · rwa [addAnswer_nslot, unpacked_nslot, extracted_nslot, State.nslot, hsh]

/-- Settles O59: SHARE_OUT gives the texts of the share's words, and SHARE_IN of these loads the share. -/
theorem shareMnemonicCarriesTheShare : Obligations.ShareMnemonicCarriesTheShare := by
  intro s s' k k' hrom hr hl hl' hs hk hk' _ hv h1 h15
  obtain ⟨t, _, hrun, rfl⟩ := shareOut_ends hl hs hk hv h1 h15
  rw [← hr] at hrun hrom
  obtain ⟨t', _, hrun', _, rfl, rfl, hslot, hclear⟩ := shareIn_succeeds hrom hl hl' hk' hv h1 h15
  exact ⟨t, t', _, hrun, by rw [List.length_map, codecWords_length_of_full (shareWords_wcnt _ s)], hrun', hslot, hclear⟩

end Sys2Proof.Machine
end

section
/-!
SUPPORT. Secrets of many chunks (spec/46_host_sequences.md rules R205 and R206): what SPLITSECRET reads out for each chunk are the
payloads of the chunk's shares, and COMBINESECRET interpolates each chunk through the groups it is given.
-/

namespace Sys2Proof.Machine

/-! ### Sequences over lists -/

/-- A sequence performed on each element of a list, where each one keeps `I` and gives a result that `R` relates to the element. -/
theorem inOrder_succeeds {α β : Type} {f : α → Script (Except HostError β)} {I : State → Prop} {R : α → β → Prop}
    {xs : List α} (hf : ∀ x ∈ xs, ∀ s, I s → (f x).Succeeds s fun t y => I t ∧ R x y) {s : State} (hs : I s) :
    (inOrder f xs).Succeeds s fun t ys => I t ∧ List.Forall₂ R xs ys := by
  induction xs generalizing s with
  | nil => exact Script.succeeds_done ⟨hs, .nil⟩
  | cons x xs ih =>
    obtain ⟨hx, hxs⟩ := List.forall_mem_cons.1 hf
    refine Script.ends_orStop (hx s hs) fun t y ht => Script.ends_orStop (ih hxs ht.1) fun u ys hu => ?_
    exact Script.succeeds_done ⟨hu.1, .cons ht.2 hu.2⟩

/-- The shares in the slots from k up, where reading out each one keeps `I` (R205). -/
theorem readShares_ends {α : Type} {out : Byte → Script α} {I : State → Prop} {g : Nat → α} {n k : Nat}
    (hout : ∀ m, m < k + n → ∀ s, I s → (out (BitVec.ofNat 8 m)).Ends s fun t x => I t ∧ x = g m) {s : State} (hs : I s) :
    (readShares out n k).Ends s fun t xs => I t ∧ xs = (List.range' k n).map g := by
  induction n generalizing k s with
  | zero => exact Script.ends_done ⟨hs, rfl⟩
  | succ n ih =>
    refine Script.ends_andThen (hout k (by omega) s hs) ?_
    rintro t _ ⟨ht, rfl⟩
    refine Script.ends_andThen (ih (fun m hm => hout m (by omega)) ht) ?_
    rintro u _ ⟨hu, rfl⟩
    exact Script.ends_done ⟨hu, rfl⟩

/-- The pieces of a list, put together again. -/
theorem flatten_map_range_take_drop {α : Type} (n m : Nat) (xs : List α) :
    ((List.range m).map fun c => (xs.drop (n * c)).take n).flatten = xs.take (n * m) := by
  induction m with
  | zero => simp
  | succ m ih => rw [List.range_succ, List.map_append, List.flatten_append, ih, Nat.mul_succ, List.take_add]; simp

/-- Whole chunks put together are the secret. -/
theorem flatten_cutEvery {α : Type} {n : Nat} {xs : List α} (h : xs.length % n = 0) : (cutEvery n xs).flatten = xs := by
  rw [cutEvery, flatten_map_range_take_drop, Nat.mul_div_cancel' (Nat.dvd_of_mod_eq_zero h), List.take_length]

theorem length_of_mem_cutEvery {α : Type} {n : Nat} {xs b : List α} (h : b ∈ cutEvery n xs) : b.length = n := by
  obtain ⟨c, hc, rfl⟩ := List.mem_map.1 h
  have hle : n * (c + 1) ≤ n * (xs.length / n) := Nat.mul_le_mul_left n (List.mem_range.1 hc)
  have hdiv := Nat.mul_div_le xs.length n
  rw [Nat.mul_succ] at hle
  rw [List.length_take, List.length_drop]
  omega

/-! ### SPLITSECRET -/

/-- The payloads of the n shares of a chunk made with the draws r, as the host reads them out (R163, R205). -/
def chunkPayloads (poly : BitVec 9) (t n : Nat) (b r : List Byte) : List (List Byte) :=
  (List.range n).map fun k => (shareSlot poly (chunkOfList b) r t k).pay.toList

/-- `xs` are the payloads of the n shares of the chunk b, for some draws. -/
def ArePayloadsOf (poly : BitVec 9) (t n : Nat) (b : List Byte) (xs : List (List Byte)) : Prop :=
  ∃ r, r.length = 16 * (t - 1) ∧ xs = chunkPayloads poly t n b r

/-- What stays between the chunks of a SPLITSECRET begun in `s₀`: no error is latched and the source answers. -/
structure Splitting (s₀ s : State) : Prop where
  clear : s.errcode = 0
  poly : s.poly = s₀.poly
  nslot : s.nslot = s₀.nslot
  rng : s.rngAnswers = true

section
variable {s₀ s : State} (h : Splitting s₀ s)
include h

theorem Splitting.putCodec (c : Chunk) (m : BitVec 5) : Splitting s₀ (putCodec c m s) := ⟨h.clear, h.poly, h.nslot, h.rng⟩

theorem Splitting.putSec (c : Chunk) : Splitting s₀ (putSec c s) := ⟨h.clear, h.poly, h.nslot, h.rng⟩

theorem Splitting.addAnswer (v : Reg32) : Splitting s₀ (addAnswer v s) := ⟨h.clear, h.poly, h.nslot, h.rng⟩

theorem Splitting.afterChunkRead (c : Chunk) : Splitting s₀ (s.afterChunkRead c) :=
  (((h.addAnswer _).addAnswer _).addAnswer _).addAnswer _

/-- A SPLIT leaves what stays between the chunks. -/
theorem Splitting.splitWith (t n : Byte) (r : List Byte) : Splitting s₀ (s.splitWith t n r) := by
  obtain ⟨hclear, hpoly, hnslot, hrng⟩ := h
  refine ⟨?_, ?_, (nslot_splitWith ..).trans hnslot, ?_⟩ <;> simpa [State.splitWith]

end

/-- Reading out a valid slot gives its payload and changes no slot (R205). -/
theorem sharePayload_ends {s₀ s : State} {k : Byte} (hs : Splitting s₀ s) (hk : k.toNat < s.nslot)
    (hv : (s.slot k.toNat).valid = true) :
    (sharePayload k).Ends s fun t x => (Splitting s₀ t ∧ t.sh = s.sh) ∧ x = (s.slot k.toNat).pay.toList :=
  Script.ends_cmd (exec_stsh hs.clear hk hv)
    (ends_rdChunk (fun _ => rfl) (fun _ => rfl) (Script.ends_done ⟨⟨(hs.putCodec _ _).afterChunkRead _, rfl⟩, rfl⟩))

/-- Reading out the shares of a chunk gives their payloads (R205). -/
theorem readShares_sharePayload_ends {s₀ s : State} {t n : Nat} {b r : List Byte} (hs : Splitting s₀ s) (hn : n ≤ s₀.nslot)
    (h255 : n ≤ 255) (hslot : ∀ k < n, s.slot k = shareSlot s₀.poly (chunkOfList b) r t k) :
    (readShares sharePayload n 0).Ends s fun u xs => Splitting s₀ u ∧ xs = chunkPayloads s₀.poly t n b r := by
  have hread : ∀ k, k < 0 + n → ∀ u, Splitting s₀ u ∧ u.sh = s.sh →
      (sharePayload (BitVec.ofNat 8 k)).Ends u fun v x =>
        (Splitting s₀ v ∧ v.sh = s.sh) ∧ x = (shareSlot s₀.poly (chunkOfList b) r t k).pay.toList := by
    rintro k hk u ⟨hu, hsh⟩
    have hk8 : (BitVec.ofNat 8 k).toNat = k := by rw [BitVec.toNat_ofNat]; omega
    have huslot : u.slot (BitVec.ofNat 8 k).toNat = shareSlot s₀.poly (chunkOfList b) r t k := by
      rw [hk8, ← hslot k (by omega), State.slot, hsh, State.slot]
    have hends := sharePayload_ends hu (k := BitVec.ofNat 8 k) (by rw [hu.nslot]; omega) (by rw [huslot]; rfl)
    rwa [huslot, hsh] at hends
  refine Script.Ends.imp (readShares_ends hread ⟨hs, rfl⟩) ?_
  rintro u xs ⟨⟨hu, -⟩, rfl⟩
  exact ⟨hu, by rw [chunkPayloads, List.range_eq_range']⟩

/-- One chunk of a SPLITSECRET gives the payloads of its shares (R205). -/
theorem splitChunk_succeeds {s₀ s : State} {t n : Byte} (hpar : LegalSplit t n s₀.nslot) (hs : Splitting s₀ s)
    (b : List Byte) :
    (splitChunk sharePayload t n b).Succeeds s fun u xs =>
      Splitting s₀ u ∧ ArePayloadsOf s₀.poly t.toNat n.toNat b xs := by
  have hcodec := hs.putCodec (chunkOfList b) 16
  have hsec := hcodec.putSec (chunkOfList b)
  obtain ⟨-, -, hn⟩ := id hpar
  obtain ⟨r, ⟨hr, -⟩, hx⟩ := exec_split hsec.clear (hsec.nslot.symm ▸ hpar) (.inl hsec.rng)
  refine ends_wrCodecChunk (Script.ends_cmd (exec_ldsec hcodec.clear (putCodec_blen ..)) (Script.ends_cmd hx ?_))
  have hsplit := hsec.splitWith t n r
  have hslot : ∀ k < n.toNat, (State.splitWith t n r (putSec (chunkOfList b) (putCodec (chunkOfList b) 16 s))).slot k =
      shareSlot s₀.poly (chunkOfList b) r t.toNat k := fun k hk => by
    rw [slot_splitWith r (hsec.nslot ▸ hn), if_pos hk, hsec.poly, putSec_sec]
  refine Script.ends_orStop (checkErrcode_succeeds hsplit.clear) ?_
  rintro v - rfl
  refine Script.ends_andThen (readShares_sharePayload_ends (hsplit.addAnswer 0) hn (by omega) hslot) ?_
  rintro w _ ⟨hw, rfl⟩
  exact Script.succeeds_done ⟨hw, r, hr, rfl⟩

/-- SPLITSECRET gives, share by share, the payloads of the shares of each chunk in order (R205). -/
theorem splitSecret_succeeds {s : State} {t n : Byte} (hpar : LegalSplit t n s.nslot) (hl : s.errcode = 0)
    (hrng : s.rngAnswers = true) {secret : List Byte} (hlen : secret.length % 16 = 0) :
    (splitSecret t n secret).Succeeds s fun _ shares => ∃ parts,
      List.Forall₂ (ArePayloadsOf s.poly t.toNat n.toNat) (cutEvery 16 secret) parts ∧
      shares = (List.range n.toNat).map fun k => parts.map fun xs => xs.getD k [] := by
  rw [splitSecret, splitSecretBy, if_neg (not_not.2 hlen)]
  refine Script.ends_orStop (inOrder_succeeds (fun b _ u hu => splitChunk_succeeds hpar hu b) ⟨hl, rfl, rfl, hrng⟩)
    fun u parts hu => ?_
  exact Script.ends_cmd (exec_zeroize u) (Script.succeeds_done ⟨parts, hu.2, rfl⟩)

/-! ### The slots of COMBINESECRET -/

/-- The share a group's index and payload make (R183, R206). -/
def groupSlot (g : Byte × List Byte) : Slot := ⟨true, g.1, chunkOfList g.2⟩

/-- What stays while the slots are loaded for a COMBINESECRET begun in `s₀`: no error is latched, and the valid ones of the
first g slots are the shares xs. -/
structure Loading (s₀ : State) (g : Nat) (xs : List Slot) (s : State) : Prop where
  clear : s.errcode = 0
  poly : s.poly = s₀.poly
  nslot : s.nslot = s₀.nslot
  valid : validSlots (s.sh.take g) = xs

theorem validSlots_append (xs ys : List Slot) : validSlots (xs ++ ys) = validSlots xs ++ validSlots ys :=
  List.filter_append ..

section
variable {s₀ s : State} {g : Nat} {xs : List Slot} (h : Loading s₀ g xs s)
include h

theorem Loading.putCodec (c : Chunk) (n : BitVec 5) : Loading s₀ g xs (putCodec c n s) :=
  ⟨h.clear, h.poly, h.nslot, h.valid⟩

theorem Loading.putSec (c : Chunk) : Loading s₀ g xs (putSec c s) := ⟨h.clear, h.poly, h.nslot, h.valid⟩

theorem Loading.addAnswer (v : Reg32) : Loading s₀ g xs (addAnswer v s) := ⟨h.clear, h.poly, h.nslot, h.valid⟩

theorem Loading.afterChunkRead (c : Chunk) : Loading s₀ g xs (s.afterChunkRead c) :=
  (((h.addAnswer _).addAnswer _).addAnswer _).addAnswer _

/-- The next slot is written: a valid share comes last among the valid ones. -/
theorem Loading.putSlot (hg : g < s₀.nslot) (x : Slot) : Loading s₀ (g + 1) (xs ++ validSlots [x]) (putSlot g x s) := by
  obtain ⟨hclear, hpoly, hnslot, hvalid⟩ := h
  refine ⟨hclear, hpoly, (putSlot_nslot ..).trans hnslot, ?_⟩
  rw [putSlot_sh, take_succ_set x (show g < s.nslot by omega), validSlots_append, hvalid]

/-- The loading begins anew at slot 0. -/
theorem Loading.restart : Loading s₀ 0 [] s := ⟨h.clear, h.poly, h.nslot, rfl⟩

/-- Once every slot is loaded, the shares are all the valid ones. -/
theorem Loading.validSlots_eq (hg : s₀.nslot ≤ g) : validSlots s.sh = xs := by
  have hall : s.sh.length ≤ g := h.nslot.trans_le hg
  rw [← h.valid, List.take_of_length_le hall]

end

section
variable {α : Type} {s₀ s : State} {Q : State → α → Prop} {k : Script α} (h255 : s₀.nslot ≤ 255)
include h255

/-- The groups are loaded into the slots from g up (R206). -/
theorem ends_loadGroups {groups : List (Byte × List Byte)} {g : Nat} {xs : List Slot} (h : Loading s₀ g xs s)
    (hlen : g + groups.length ≤ s₀.nslot) (hidx : ∀ x ∈ groups, x.1 ≠ 0)
    (hk : ∀ t, Loading s₀ (g + groups.length) (xs ++ groups.map groupSlot) t → k.Ends t Q) :
    (loadGroups groups g k).Ends s Q := by
  induction groups generalizing g xs s with
  | nil => exact hk s (by simpa using h)
  | cons x groups ih =>
    obtain ⟨hx, hgroups⟩ := List.forall_mem_cons.1 hidx
    rw [List.length_cons] at hlen
    have hg8 : (BitVec.ofNat 8 g).toNat = g := by rw [BitVec.toNat_ofNat]; omega
    have hcodec := h.putCodec (chunkOfList x.2) 16
    have hload := exec_ldsh (k := BitVec.ofNat 8 g) hcodec.clear (by rw [hg8, hcodec.nslot]; omega) hx (putCodec_blen ..)
    rw [hg8] at hload
    refine ends_wrCodecChunk (Script.ends_cmd hload ?_)
    refine ih (hcodec.putSlot (by omega) (groupSlot x)) (by omega) hgroups fun t ht => hk t ?_
    rw [List.append_assoc] at ht
    rwa [List.length_cons, Nat.add_comm groups.length, ← Nat.add_assoc]

/-- The slots from i up are cleared (R206). -/
theorem ends_clearSlots {n i : Nat} {xs : List Slot} (h : Loading s₀ i xs s) (hlen : i + n ≤ s₀.nslot)
    (hk : ∀ t, Loading s₀ (i + n) xs t → k.Ends t Q) : (clearSlots n i k).Ends s Q := by
  induction n generalizing i s with
  | zero => exact hk s h
  | succ n ih =>
    have hn := h.nslot
    refine Script.ends_wr (regAt_shidx (by omega) (by omega)) nofun ?_
    have hclear := h.putSlot (by omega) { s.slot i with valid := false, idx := 0 }
    rw [show validSlots [_] = [] from rfl, List.append_nil] at hclear
    refine ih hclear (by omega) fun t ht => hk t ?_
    rwa [Nat.add_comm n, ← Nat.add_assoc]

/-- One chunk of a COMBINESECRET gives the chunk interpolated through the groups (R206). -/
theorem combineGroups_succeeds {t : Byte} {groups : List (Byte × List Byte)} (h : Loading s₀ 0 [] s)
    (hcheck : combineCheck t.toNat s₀.nslot (groups.map Prod.fst) = none) (hlen : groups.length ≤ s₀.nslot) :
    (combineGroups s₀.nslot t groups).Succeeds s fun u b =>
      Loading s₀ 0 [] u ∧ b = (combineChunk s₀.poly (groups.map groupSlot)).toList := by
  obtain ⟨-, h0, -⟩ := combineCheck_eq_none_iff.1 hcheck
  have hidx : ∀ x ∈ groups, x.1 ≠ 0 := fun x hx hx0 => h0 (List.mem_map.2 ⟨x, hx, hx0⟩)
  refine ends_loadGroups h255 h (by omega) hidx fun u hu => ?_
  rw [Nat.zero_add] at hu
  refine ends_clearSlots h255 hu (by omega) fun v hv => ?_
  have hvalid : validSlots v.sh = groups.map groupSlot := hv.validSlots_eq (by omega)
  have hidxs : validIdxs v.sh = groups.map Prod.fst := by
    rw [validIdxs, hvalid, List.map_map]
    rfl
  have hsec := hv.putSec (combineChunk v.poly (validSlots v.sh))
  refine Script.ends_cmd (exec_combine_recovers hv.clear (by rw [hidxs, hv.nslot, hcheck])) ?_
  refine Script.ends_orStop (checkErrcode_succeeds hsec.clear) ?_
  rintro w - rfl
  refine ends_rdChunk (fun _ => rfl) (fun _ => rfl) (Script.succeeds_done ⟨((hsec.addAnswer _).afterChunkRead _).restart, ?_⟩)
  rw [addAnswer_sec, putSec_sec, hvalid, hv.poly]

end

/-! ### COMBINESECRET -/

/-- The index and the payload of chunk c of a group. -/
def groupChunk (c : Nat) (g : Byte × List (List Byte)) : Byte × List Byte := (g.1, g.2.getD c [])

/-- A list that is not empty and has one element only begins with it. -/
theorem headD_of_forall_eq {l : List Nat} {c d : Nat} (hne : l ≠ []) (h : ∀ x ∈ l, x = c) : l.headD d = c := by
  cases l with
  | nil => exact absurd rfl hne
  | cons x l => exact h x List.mem_cons_self

/-- COMBINESECRET over groups of C chunks gives the chunks interpolated through the groups, in order (R206). -/
theorem combineSecret_succeeds {s : State} {t : Byte} {groups : List (Byte × List (List Byte))} {C : Nat}
    (h255 : s.nslot ≤ 255) (hl : s.errcode = 0) (hcheck : combineCheck t.toNat s.nslot (groups.map Prod.fst) = none)
    (hne : groups ≠ []) (hlen : groups.length ≤ s.nslot) (hC : ∀ g ∈ groups, g.2.length = C) :
    (combineSecret s.nslot t groups).Succeeds s fun _ secret =>
      secret = ((List.range C).map fun c => (combineChunk s.poly (groups.map (groupSlot ∘ groupChunk c))).toList).flatten := by
  have hhead : (groups.map fun g => g.2.length).headD 0 = C :=
    headD_of_forall_eq (mt List.map_eq_nil_iff.1 hne) (List.forall_mem_map.2 hC)
  rw [combineSecret, hhead, if_neg (by simpa using hC), if_neg (by omega)]
  have hchunk : ∀ c ∈ List.range C, ∀ u, Loading s 0 [] u →
      (combineGroups s.nslot t (groups.map (groupChunk c))).Succeeds u fun v b =>
        Loading s 0 [] v ∧ b = (combineChunk s.poly (groups.map (groupSlot ∘ groupChunk c))).toList := by
    intro c _ u hu
    have hfst : (groups.map (groupChunk c)).map Prod.fst = groups.map Prod.fst := by
      rw [List.map_map]
      rfl
    have hends := combineGroups_succeeds h255 hu (hfst ▸ hcheck) (by rwa [List.length_map])
    rwa [List.map_map] at hends
  refine Script.ends_orStop (inOrder_succeeds hchunk ⟨hl, rfl, rfl, rfl⟩) ?_
  rintro u parts ⟨-, hparts⟩
  refine Script.ends_cmd (exec_zeroize u) (Script.succeeds_done ?_)
  have hmap := List.forall₂_map_left_iff.2 (hparts.imp fun _ _ h => h.symm)
  rw [List.forall₂_eq_eq_eq] at hmap
  rw [hmap]

/-! ### COMBINESECRET after SPLITSECRET -/

/-- The indices of shares of different numbers are different (R161). -/
theorem nodup_map_index {ks : List Nat} (hd : ks.Nodup) (h255 : ∀ k ∈ ks, k < 255) :
    (ks.map fun k => BitVec.ofNat 8 (k + 1)).Nodup :=
  hd.map_on fun j hj k hk => ofNat_succ_inj (h255 j hj) (h255 k hk)

/-- Enough shares of different numbers recover their chunk, in any order (R167). -/
theorem combineChunk_map_shareSlot {poly : BitVec 9} (hp : LegalPoly poly) (sec : Chunk) {r : List Byte} {t : Nat}
    (hr : r.length = 16 * (t - 1)) (ht : 1 ≤ t) {ks : List Nat} (hd : ks.Nodup) (h255 : ∀ k ∈ ks, k < 255)
    (hk : t ≤ ks.length) : combineChunk poly (ks.map (shareSlot poly sec r t)) = sec := by
  have h := getLsbD_eight_of_legalPoly hp
  have := fact_irreducible hp
  have hidxs : (ks.map (shareSlot poly sec r t)).map (fun x => x.idx) = ks.map fun k => BitVec.ofNat 8 (k + 1) :=
    List.map_map
  have hd' := nodup_map_index hd h255
  refine chunk_eq_of_bytes fun p => ?_
  have hterms : recoveredByte poly (ks.map (shareSlot poly sec r t)) p =
      xorAll ((ks.map fun k => BitVec.ofNat 8 (k + 1)).map fun x =>
        gfmul poly (polyeval poly (laneCoeffs sec r t p) x)
          (lagrangeWeight poly (ks.map fun k => BitVec.ofNat 8 (k + 1)) x)) := by
    rw [recoveredByte, hidxs, List.map_map, List.map_map]
    refine congrArg xorAll (List.map_congr_left fun k _ => ?_)
    rw [Function.comp_apply, Function.comp_apply, shareSlot_pay, shareSlot_idx]
  rw [combineChunk_getElem_of_nodup poly (hidxs ▸ hd'), hterms]
  refine xorAll_weighted_values h hd' sec[p] ?_
  rw [← laneCoeffs, laneCoeffs_length sec hr, List.length_map]
  omega

/-- Enough shares of different numbers pass COMBINE's checks (R165). -/
theorem combineCheck_of_numbers {t nslot : Nat} {ks : List Nat} (h2 : 2 ≤ t) (hd : ks.Nodup) (h255 : ∀ k ∈ ks, k < 255)
    (hk : t ≤ ks.length) (hn : ks.length ≤ nslot) :
    combineCheck t nslot (ks.map fun k => BitVec.ofNat 8 (k + 1)) = none := by
  refine combineCheck_eq_none_iff.2 ⟨⟨h2, hk.trans hn⟩, fun h0 => ?_, nodup_map_index hd h255, by rwa [List.length_map]⟩
  obtain ⟨k, hmem, hzero⟩ := List.mem_map.1 h0
  have hlt := h255 k hmem
  have hmod : (k + 1) % 2 ^ 8 = 0 := congrArg BitVec.toNat hzero
  omega

/-- The groups of numbers ks of a SPLITSECRET over n shares, as COMBINESECRET takes them: each its index and its payloads, where
`parts` are the payloads of the shares of each chunk (R205, R206). -/
def chosenGroups (n : Nat) (parts : List (List (List Byte))) (ks : List Nat) : List (Byte × List (List Byte)) :=
  ks.map fun k => (BitVec.ofNat 8 (k + 1), ((List.range n).map fun k => parts.map fun xs => xs.getD k []).getD k [])

theorem chosenGroups_fst (n : Nat) (parts : List (List (List Byte))) (ks : List Nat) :
    (chosenGroups n parts ks).map Prod.fst = ks.map fun k => BitVec.ofNat 8 (k + 1) :=
  List.map_map

section
variable {n : Nat} {parts : List (List (List Byte))} {ks : List Nat} (hks : ∀ k ∈ ks, k < n)
include hks

/-- A chosen group has as many chunks as the secret. -/
theorem length_of_mem_chosenGroups : ∀ g ∈ chosenGroups n parts ks, g.2.length = parts.length :=
  List.forall_mem_map.2 fun k hk => by simp [hks k hk]

/-- The slots of a chunk of the chosen groups hold the shares SPLIT made of the chunk. -/
theorem chosenGroups_slots {poly : BitVec 9} {t c : Nat} {b r : List Byte}
    (hc : parts[c]? = some (chunkPayloads poly t n b r)) :
    (chosenGroups n parts ks).map (groupSlot ∘ groupChunk c) = ks.map (shareSlot poly (chunkOfList b) r t) := by
  rw [chosenGroups, List.map_map]
  refine List.map_congr_left fun k hk => ?_
  simp [groupSlot, groupChunk, hks k hk, hc, chunkPayloads, chunkOfList_toList, shareSlot]

/-- Enough groups recover the chunks, in order (R167). -/
theorem combineChunks_of_chosenGroups {poly : BitVec 9} (hp : LegalPoly poly) {t : Nat} (ht : 1 ≤ t) (hn : n ≤ 255)
    (hd : ks.Nodup) (hk : t ≤ ks.length) {chunks : List (List Byte)} (hlen : ∀ b ∈ chunks, b.length = 16)
    (hparts : List.Forall₂ (ArePayloadsOf poly t n) chunks parts) :
    ((List.range parts.length).map fun c =>
      (combineChunk poly ((chosenGroups n parts ks).map (groupSlot ∘ groupChunk c))).toList) = chunks := by
  refine List.ext_getElem (by simp [hparts.length_eq]) fun c _ hc => ?_
  have hc' : c < parts.length := hparts.length_eq ▸ hc
  obtain ⟨r, hr, hpart⟩ := hparts.get hc hc'
  have hc? : parts[c]? = some (chunkPayloads poly t n chunks[c] r) := List.getElem?_eq_some_iff.2 ⟨hc', hpart⟩
  rw [List.getElem_map, List.getElem_range, chosenGroups_slots hks hc?,
    combineChunk_map_shareSlot hp _ hr ht hd (fun k hk => (hks k hk).trans_le hn) hk,
    toList_chunkOfList (hlen _ (List.getElem_mem hc))]

end

/-- Settles O60: each chunk is interpolated through enough of its own shares, and the chunks make the secret. -/
theorem combineSecretInvertsSplitSecret : Obligations.CombineSecretInvertsSplitSecret := by
  rintro s s' t n secret hp hpoly ⟨-, h255⟩ ⟨-, h255'⟩ hl hl' hrng h2 htn hn hlen
  obtain ⟨u, _, hrun, _, rfl, parts, hparts, rfl⟩ := splitSecret_succeeds ⟨h2, htn, hn⟩ hl hrng hlen
  refine ⟨u, _, hrun, by simp, fun ks hd hks hk hk' => ?_⟩
  have hn255 : n.toNat ≤ 255 := hn.trans h255
  have hcheck : combineCheck t.toNat s'.nslot ((chosenGroups n.toNat parts ks).map Prod.fst) = none := by
    rw [chosenGroups_fst]
    exact combineCheck_of_numbers h2 hd (fun k hmem => (hks k hmem).trans_le hn255) hk hk'
  have hlength : (chosenGroups n.toNat parts ks).length = ks.length := List.length_map _
  have hne : chosenGroups n.toNat parts ks ≠ [] := List.ne_nil_of_length_pos (by omega)
  obtain ⟨v, _, hrun', _, rfl, rfl⟩ := combineSecret_succeeds h255' hl' hcheck hne (hlength.trans_le hk')
    (length_of_mem_chosenGroups hks)
  rw [hpoly, combineChunks_of_chosenGroups hks hp (by omega) hn255 hd hk (fun _ => length_of_mem_cutEvery) hparts,
    flatten_cutEvery hlen] at hrun'
  exact ⟨v, hrun'⟩

end Sys2Proof.Machine
end

section
/-!
SUPPORT. One event first at the port, event by event (spec/00_scope.md rules R6 and R7, spec/20_memory.md rules R62 to R64),
and when a command is abandoned at a reset (spec/70_reset_and_hazards.md rule R250).
-/

namespace Sys2Proof.Machine

/-- The step takes the event first at the port and serves it in the state that remains (R7). -/
theorem step_of_port_cons {s : State} {e : Event} {rest : List Event} (h : s.port = e :: rest) :
    step s = serve e (putPort rest s) := by
  rw [step, nextTransaction, h]

/-- With nothing pending the engine has no step of its own (R6). -/
theorem step_of_port_nil {s : State} (h : s.port = []) : step s = .next s := by
  rw [step, nextTransaction, h]

/-! ### Abandoning a command -/

theorem abandonAtReset_next (s t : State) : abandonAtReset s (.next t) = .next t := rfl

theorem abandonAtReset_of_no_reset {s : State} (a : Answer) (h : ∀ later, s.port ≠ .reset :: later) :
    abandonAtReset s a = a := by
  unfold abandonAtReset
  split
  · next hp => exact absurd hp (h _)
  · rfl

theorem abandonAtReset_of_silent {s : State} {later : List Event} (h : s.port = .reset :: later) :
    abandonAtReset s (.fault .rngSilent) = .next (resetEvent (putPort later s)) := by
  simp only [abandonAtReset, h]

/-! ### A command first at the port, and what a reset leaves -/

/-- A command word first at the port runs the command it decodes to (R64, R95). -/
theorem step_of_command {s : State} {cw : Reg32} {rest : List Event} {i : Instr} (hp : s.port = .write 0x000 cw :: rest)
    (hd : decode cw = .ok i) : step s = abandonAtReset (putPort rest s) (exec i (putPort rest s)) := by
  rw [step_of_port_cons hp, serve, portWrite, if_pos rfl, runCommand_of_ok _ hd]

/-- A reset is what ERRCLR makes of a zeroized state (R250). -/
theorem clearLatch_zeroized (s : State) : clearLatch (zeroized s) = resetEvent s := rfl

/-! ### The statements -/

/-- Settles O6: `step_of_command`, by what is abandoned at a reset and what is not. -/
theorem stepRunsTheDecodedCommand : Obligations.StepRunsTheDecodedCommand := by
  intro s cw rest i hp hd
  rw [step_of_command hp hd]
  refine ⟨fun t ht => ?completes, fun hrest => ?noReset, fun later hrest hf => ?abandoned⟩
  case completes => exact (congrArg (abandonAtReset (putPort rest s)) ht).trans (abandonAtReset_next _ t)
  case noReset => exact abandonAtReset_of_no_reset _ hrest
  case abandoned =>
    exact (congrArg (abandonAtReset (putPort rest s)) hf).trans (abandonAtReset_of_silent (s := putPort rest s) hrest)

/-- Settles O7, event by event. -/
theorem stepServesEveryOtherEvent : Obligations.StepServesEveryOtherEvent := by
  refine fun s rest => ⟨fun r hp => ?read, fun r v hr hp => ?write, step_of_port_cons, step_of_port_nil⟩
  case read =>
    rw [step_of_port_cons hp, serve, portRead_putPort]
    rfl
  case write =>
    rw [step_of_port_cons hp, serve, portWrite_of_ne_cmd v _ hr, writeRegAt_putPort]
    rfl

/-- Settles O17: ZEROIZE and ERRCLR answer in every state, and `clearLatch_zeroized`. -/
theorem resetIsZeroizeThenErrclr : Obligations.ResetIsZeroizeThenErrclr := fun s =>
  ⟨zeroized s, exec_zeroize s, clearLatch_zeroized s ▸ exec_errclr (zeroized s)⟩

end Sys2Proof.Machine
end

section
/-!
SUPPORT. The error latch (spec/60_exceptions.md rules R223 to R227): what error entry writes, which errors a command raises,
and what a command word, the port and a step do while an error is latched.
-/

namespace Sys2Proof.Machine

/-! ### Error entry -/

/-- Settles O10: with the latch set after it, the command word cannot have succeeded. -/
theorem errorEntryIsPrecise : Obligations.ErrorEntryIsPrecise := fun _ _ _ hl h ht =>
  (runCommand_succeeds_or_raises hl h).resolve_left ht

/-- A command that sets the latch has raised one of its errors (R223, R224). -/
theorem raises_of_exec_next {i : Instr} {s t : State} (hl : s.errcode = 0) (h : exec i s = .next t) (ht : t.errcode ≠ 0) :
    Raises i s t := by
  obtain ⟨hset, -, -⟩ | hraises | ⟨-, heff⟩ := exec_next h
  · exact absurd hl hset
  · exact hraises
  · exact absurd ((effect_keeps heff).1 hl) ht

/-- Settles O11: the error is one that `Raises` allows, and its code is one that occurs. -/
theorem commandsRaiseOnlyTheirErrors : Obligations.CommandsRaiseOnlyTheirErrors := by
  intro i s t hl h ht
  obtain ⟨-, e, he, rfl⟩ := raises_of_exec_next hl h ht
  exact ⟨⟨e, he, rfl⟩, code_mem_occurringCodes he⟩

/-! ### The port does not look at the latch -/

/-- A host write does the same whatever the latch is (R226). -/
theorem writeRegAt_clearLatch (r : RegNum) (v : Reg32) (s : State) :
    writeRegAt r v (clearLatch s) = clearLatch (writeRegAt r v s) := by
  have hreg : (clearLatch s).regAt r = s.regAt r := rfl
  cases hx : s.regAt r with
  | none => rw [writeRegAt_of_unmapped v hx, writeRegAt_of_unmapped v (hreg.trans hx)]
  | some x =>
    rw [writeRegAt_of_regAt v hx, writeRegAt_of_regAt v (hreg.trans hx)]
    cases x
    case wcnt | blen =>
      rw [writeReg, writeReg, apply_ite clearLatch]
      rfl
    all_goals rfl

/-- Only ERRCODE and ERRINFO show the latch (R31). -/
theorem readReg_clearLatch (s : State) {x : Reg} (hc : x ≠ .errcode) (hi : x ≠ .errinfo) :
    readReg (clearLatch s) x = readReg s x := by
  cases x
  case errcode => exact absurd rfl hc
  case errinfo => exact absurd rfl hi
  all_goals rfl

/-- A host read of any register but ERRCODE and ERRINFO does not look at the latch (R226). -/
theorem portRead_clearLatch {r : RegNum} (s : State) (hc : r ≠ 0x001) (hi : r ≠ 0x002) :
    portRead r (clearLatch s) = portRead r s := by
  have hreg : (clearLatch s).regAt r = s.regAt r := rfl
  cases hx : s.regAt r with
  | none => rw [portRead_of_unmapped hx, portRead_of_unmapped (hreg.trans hx)]
  | some x =>
    have herrcode : s.regAt 0x001 = some .errcode := rfl
    have herrinfo : s.regAt 0x002 = some .errinfo := rfl
    rw [portRead_of_regAt hx, portRead_of_regAt (hreg.trans hx)]
    refine readReg_clearLatch s ?_ ?_
    · rintro rfl
      exact hc (State.regAt_inj hx herrcode)
    · rintro rfl
      exact hi (State.regAt_inj hx herrinfo)

/-- Settles O9: `runCommand_latched` for the command words, and a port that does not look at the latch. -/
theorem latchedEngineDropsCommands : Obligations.LatchedEngineDropsCommands := by
  refine ⟨fun s cw hl hc hz => runCommand_latched hl hc hz, fun s r v hr => ?write,
    fun s r hc hi => (portRead_clearLatch s hc hi).symm⟩
  case write =>
    obtain ⟨-, -, -, hcode, hinfo, -⟩ := writeRegAt_keeps r v s
    change _ = Host.Outcome.next { writeRegAt r v (clearLatch s) with errcode := s.errcode, errinfo := s.errinfo }
    rw [portWrite_of_ne_cmd v s hr, writeRegAt_clearLatch, ← hcode, ← hinfo]
    rfl

/-! ### The first error is kept -/

/-- The second state has the latched error of the first: ERRCODE and ERRINFO are kept (R225). -/
def SameLatch (s t : State) : Prop := t.errcode = s.errcode ∧ t.errinfo = s.errinfo

/-- While the latch is set a command word completes, and only that of ERRCLR touches the latch (R226, R227). -/
theorem runCommand_of_latched {s : State} (cw : Reg32) (hl : s.errcode ≠ 0) :
    ∃ t, runCommand cw s = .next t ∧ (SameLatch s t ∨ cw = encode .errclr ∧ t = clearLatch s) := by
  by_cases hc : cw = encode .errclr
  · subst hc
    exact ⟨_, (runCommand_of_ok s (decode_encode _)).trans (exec_errclr s), .inr ⟨rfl, rfl⟩⟩
  by_cases hz : cw = encode .zeroize
  · subst hz
    exact ⟨_, (runCommand_of_ok s (decode_encode _)).trans (exec_zeroize s), .inl ⟨rfl, rfl⟩⟩
  · exact ⟨s, runCommand_latched hl hc hz, .inl ⟨rfl, rfl⟩⟩

/-- Settles O12, by the cases of a step; with the latch set no command waits, so none is abandoned at a reset. -/
theorem firstErrorIsKept : Obligations.FirstErrorIsKept := by
  intro s t hl h
  obtain ⟨-, rfl⟩ | ⟨rest, ⟨r, -, rfl⟩ | ⟨r, v, -, -, rfl⟩ | ⟨cw, hp, hcw⟩ | ⟨cw, later, -, -, hf, -⟩ | ⟨hp, rfl⟩⟩ :=
    step_next h
  · exact .inl ⟨rfl, rfl⟩
  · exact .inl ⟨rfl, rfl⟩
  · obtain ⟨-, -, -, hcode, hinfo, -⟩ := writeRegAt_keeps r v (putPort rest s)
    exact .inl ⟨hcode, hinfo⟩
  · obtain ⟨u, hu, hlatch⟩ := runCommand_of_latched (s := putPort rest s) cw hl
    obtain rfl : u = t := Host.Outcome.next.inj (hu.symm.trans hcw)
    refine hlatch.imp id ?_
    rintro ⟨rfl, rfl⟩
    exact ⟨rfl, rfl, rest, .inl hp⟩
  · obtain ⟨u, hu, -⟩ := runCommand_of_latched (s := putPort rest s) cw hl
    exact absurd (hu.symm.trans hf) (by simp)
  · exact .inr ⟨rfl, rfl, rest, .inr hp⟩

end Sys2Proof.Machine
end
